-- ==== Sys2Proof/Word.lean ====
section
/-! DEFINITION. The two word types of the block: registers and bus data are 32 bits (R10, R60), a buffer entry
and one serial exchange are 8 bits (R21, R121). -/

namespace Sys2Proof

/-- A register cell, a bus offset, a bus data value (R10, R60). -/
abbrev Word := BitVec 32

/-- A buffer entry, a byte of an exchange (R21, R121). -/
abbrev Byte := BitVec 8

end Sys2Proof
end

