-- ==== Sys2Proof/Machine/Flags.lean ====
section
/-! DEFINITION. The bits of SR and CR2, setting and clearing them, and the interrupt function (R13, R14, R94,
R140, R141). Pure functions on words; the operations of `Ops.lean` apply them to the state. -/

namespace Sys2Proof.Machine

abbrev srBsy      : Word := 0x00000080#32
abbrev srOverrun  : Word := 0x00000008#32
abbrev srUnderrun : Word := 0x00000004#32
/-- Bit numbers (R14). -/
abbrev bitOverrun  : Nat := 3
abbrev bitUnderrun : Nat := 2
abbrev bitTxe      : Nat := 1
abbrev bitRxne     : Nat := 0
/-- Bit numbers of the interrupt enables in CR2 (R13). -/
abbrev bitTxeie  : Nat := 7
abbrev bitRxneie : Nat := 6
abbrev bitErrie  : Nat := 5

/-- "Set by OR" (R94). -/
def setBits (w mask : Word) : Word := w ||| mask

/-- "Clear by AND-NOT" (R94). -/
def clearBits (w mask : Word) : Word := w &&& ~~~mask

/-- `w[i] <- b`: replaces that bit and leaves the others (`00_scope.md` 5.2). -/
def putBit (w : Word) (i : Nat) (b : Bool) : Word :=
  if b then setBits w (1#32 <<< i) else clearBits w (1#32 <<< i)

/-- SR with TXE and RXNE rewritten from the buffers' occupancy (R18, R140). -/
def mirrorBuffers (sr : Word) (txe rxne : Bool) : Word := putBit (putBit sr bitTxe txe) bitRxne rxne

/-- "OVERRUN or UNDERRUN" (R140). -/
def errPending (sr : Word) : Bool := sr.getLsbD bitOverrun || sr.getLsbD bitUnderrun

/-- The aggregator: three enabled conditions, ORed (R140, R141). -/
def irqFunction (txe rxne err : Bool) (cr2 : Word) : Bool :=
  (txe && cr2.getLsbD bitTxeie) || (rxne && cr2.getLsbD bitRxneie) || (err && cr2.getLsbD bitErrie)

end Sys2Proof.Machine
end

