-- ==== Sys2Proof/Machine/Operands.lean ====
section
/-! DEFINITION. How written data is cut down and how read data is formed (R64, R65), the chip-select level of a
line (R160, R161), and the naming of a register's bytes (R44). -/

namespace Sys2Proof.Machine

/-- SPE and MSTR (R12). -/
abbrev cr1Mask : Word := 0x00000044#32
/-- TXEIE, RXNEIE, ERRIE, SSOE (R13). -/
abbrev cr2Mask : Word := 0x000000F0#32
/-- OVERRUN and UNDERRUN, the flags a write of SR may clear (R14, R86). -/
abbrev srClearMask : Word := 0x0000000C#32
/-- Four enable bits and four active bits (R16). -/
abbrev csctrlMask : Word := 0x000000FF#32

/-- Masked assignment: the value stored, whatever was there (R11, R64). -/
def masked (v mask : Word) : Word := v &&& mask

/-- `v[7:0]`, the byte a write of DR sends (R64, R104). -/
def dataByte (v : Word) : Byte := v.truncate 8

/-- `zext_32(b)`, what a read of DR returns for a byte (R65, D29). -/
def zextByte (b : Byte) : Word := b.zeroExtend 32

/-- The level of line `i`: `!act` when enabled, 1 (deasserted) when disabled (R160). -/
def lineLevel (csctrl : Word) (i : Nat) : Bool :=
  if csctrl.getLsbD i then !csctrl.getLsbD (4 + i) else true

/-- The levels of all `numCs` lines, line 0 first (R160, R163). -/
def lineLevels (csctrl : Word) (numCs : Nat) : List Bool := (List.range numCs).map (lineLevel csctrl)

/-- Byte lane `k` of a register: bits 7:0 are lane 0 (R44, D4). A name for a view, not an access. -/
def byteLane (w : Word) (k : Nat) : Byte := w.extractLsb' (8 * k) 8

end Sys2Proof.Machine
end

