-- ==== Sys2Proof/Config.lean ====
section
/-! DEFINITION. What the platform fixes and the spec leaves open (R3, R4, R6, R41, R122). The open parameters are
constants without a body: nothing can evaluate them, so a claim about them holds for every platform.
`NUM_CS` is the one parameter of which the spec gives a value (default 4); it is carried in the state (log entry 4). -/

namespace Sys2Proof

/-- What a serial-bus peer can see of the block, one entry per event: an exchange it took part in, and a change of
the chip-select levels (R122, R128). -/
inductive PeerEvent where
  /-- `Exchange(sent)` was answered `answer`. -/
  | xfer (sent answer : Byte)
  /-- The chip-select levels became `levels`, line 0 first. -/
  | levels (levels : List Bool)
deriving DecidableEq, Repr

/-- The serial-bus peer (R122, D15): the answer to a byte, from the history the peer has seen (newest event first),
the present chip-select levels (line 0 first) and the byte sent. Total, unconstrained, and blind to everything
inside the block. A free value (log entry 1). -/
opaque Config.peer : List PeerEvent → List Bool → Byte → Byte

/-- `BASE` (R41, D7): where the platform places the window. Open. -/
opaque Config.base : Nat

/-- How many 32-bit words the window has beyond the five registers; the bound keeps every offset inside 32 bits
(D6). Open. -/
opaque Config.extraWords : Fin 1073741820

/-- `WINDOW_BYTES` (R41, D6): open, a multiple of 4, at least 0x14. -/
def Config.windowBytes : Nat := 4 * (5 + Config.extraWords.val)

/-- `NUM_CS` of the block unless the platform says otherwise: "default 4" (R3). -/
abbrev Config.defaultNumCs : Nat := 4

/-- The chip-select counts the block can be built with, `1 <= NUM_CS <= 4` (R4, D8). -/
abbrev Config.legalNumCs (n : Nat) : Prop := 1 ≤ n ∧ n ≤ 4

end Sys2Proof
end

