-- ==== Sys2Proof/Syntax.lean ====
section
/-! DEFINITION. The operations the block performs (one constructor per row of the opcode table, R63), the inputs
they arrive as (R60, R61, and the platform's side of the bus, R41), and the spec's pseudo-transactions (R70). -/

namespace Sys2Proof

/-- The thirteen operations of R63. A write carries its whole 32-bit `wdata`; the meaning masks it (R64). -/
inductive Instr where
  | rdCr1
  | rdCr2
  | rdSr
  | rdDr
  | rdCsctrl
  | wrCr1 (v : Word)
  | wrCr2 (v : Word)
  | wrSr (v : Word)
  | wrDr (v : Word)
  | wrCsctrl (v : Word)
  /-- A read at an offset that is none of the five (R90). -/
  | rdInvalid (offset : Word)
  /-- A write at an offset that is none of the five (R91). -/
  | wrInvalid (offset v : Word)
  /-- The reset operation, on its own port (R61, R220). -/
  | reset
deriving DecidableEq, Repr

/-- One transaction at the block's bus port, format `BUS` of R60. `wdata` is ignored on reads. -/
structure BusTxn where
  we     : Bool
  offset : Word
  wdata  : Word
deriving DecidableEq, Repr

/-- What a bus master asks of an address (R41, R51). -/
inductive AccessKind where
  | read
  | write (v : Word)
  /-- An instruction fetch: refused when it falls in the window (R51). -/
  | fetch
deriving DecidableEq, Repr

/-- One input to the block, as the environment delivers it (R5, R9). -/
inductive Request where
  /-- A transaction at the bus port (R60). -/
  | bus (t : BusTxn)
  /-- The reset input (R61, R223). -/
  | reset
  /-- The platform's side of the bus: `MemRead`, `MemWrite` or a fetch of `bytes` bytes at `addr` (R41, R43, R51). -/
  | mem (kind : AccessKind) (addr bytes : Nat)
deriving DecidableEq, Repr

/-- Why an access to the window is refused: the boundary R7 draws. -/
inductive Reject where
  /-- "A model refuses an instruction fetch from the window" (R51). -/
  | instructionFetch (addr : Nat)
  /-- The access is not 4 bytes wide (R43). -/
  | accessWidth (bytes : Nat)
deriving DecidableEq, Repr

/-- What an input asks of the block. -/
inductive Decoded where
  /-- An operation of the block (R63). -/
  | op (i : Instr)
  /-- Nothing: the address is outside the window, and such an access "never reaches the block" (R41). -/
  | elsewhere
  /-- Something the spec gives no meaning and a model refuses by name (R43, R51). -/
  | rejected (why : Reject)
deriving DecidableEq, Repr

/-- The pseudo-transactions of R70. -/
inductive Pseudo where
  | clrErr
  | clrOvr
  | clrUdr
  | sel (line : Nat)
  | desel
  | xfer (b : Word)
  | irqEn (m : Word)
deriving DecidableEq, Repr

end Sys2Proof
end

