-- ==== Sys2Proof/Machine/State.lean ====
section
/-! DEFINITION. The state of the block as plain data (R6, R10, R20, R22 to R24), what surrounds it (inputs waiting,
the event trace, the construction parameter), how a step can stop, and the state right after reset (R27). -/

namespace Sys2Proof.Machine

/-- One diagnostic event, `InvalidOffset(dir, offset, v?)` (R184, R185). -/
inductive Diag where
  | invalidRead (offset : Word)
  | invalidWrite (offset v : Word)
deriving DecidableEq, Repr

/-- The output events of the block (R128). The trace is bookkeeping of the model, not state of the block. -/
inductive Event where
  /-- `Xfer(t, r)`: one `Exchange(sent)` answered `answer`. -/
  | xfer (sent answer : Byte)
  /-- `CsSet(levels)`: one run of `UpdateCs`, line 0 first. -/
  | csSet (levels : List Bool)
  /-- `IrqSet(level)`: one run of `UpdateIrq`. -/
  | irqSet (level : Bool)
  /-- `Diag(e)`. -/
  | diag (e : Diag)
deriving DecidableEq, Repr

/-- Where the block is in its lifecycle, after construction and attachment (R224). -/
inductive Phase where
  /-- No reset has run yet: "No bus access is defined before the first reset". -/
  | awaitingReset
  | running
deriving DecidableEq, Repr

/-- The conditions the block detects while it runs (R187). -/
inductive Condition where
  | overrun
  | underrun
  | invalidOffset (e : Diag)
deriving DecidableEq, Repr

structure State where
  /-- `x[CR1]` (R12). -/
  cr1 : Word
  /-- `x[CR2]` (R13). -/
  cr2 : Word
  /-- `x[SR]` (R14); BSY, bit 7, is also the state of the transfer machine (R26, R125). -/
  sr : Word
  /-- The hidden cell `x[DR]` (R15). -/
  dr : Word
  /-- `x[CSCTRL]` (R16). -/
  csctrl : Word
  /-- The transmit buffer, empty or one byte (R20, R100). -/
  txbuf : Option Byte
  /-- The receive buffer, empty or one byte (R20, R101). -/
  rxbuf : Option Byte
  /-- The interrupt output level, asserted high (R22). -/
  irq : Bool
  /-- The chip-select output levels, line 0 first; `true` is level 1, deasserted (R23, R161). -/
  cs : List Bool
  /-- The bus port's `rdata` of the last operation; a write or a reset returns nothing (R60). -/
  rdata : Option Word
  /-- Lifecycle phase (R28, R224). -/
  phase : Phase
  /-- `NUM_CS`: fixed at construction, changed by no operation (R3). -/
  numCs : Nat
  /-- The inputs waiting at the ports, next one first (R5, R48, R54). -/
  requests : List Request
  /-- The output events so far, newest first (R128). -/
  trace : List Event
deriving DecidableEq, Repr

/-- No operation of the block traps, aborts or hangs (R7): there is no fault. -/
inductive Fault where
deriving DecidableEq, Repr

inductive Refusal where
  /-- Raised by `exec` for an instruction without a meaning; none is left. Safe. -/
  | notModelled (mnemonic : String)
  /-- Raised by fetching an access to the window that the spec draws the boundary at: a narrow or wide access, an
  instruction fetch (R7, R43, R51). Safe: the run stops where the spec gives no meaning. -/
  | rejected (why : Reject)
  /-- Raised by fetching a bus access before the first reset (R28, R224). Safe. -/
  | beforeReset
deriving DecidableEq, Repr

/-- The machine right after reset, the table of R27, with the default four lines (R3). Its trace is what the reset
drove, newest first (R220). -/
def State.reset : State where
  cr1 := 0x00000000#32
  cr2 := 0x00000000#32
  sr := 0x00000002#32
  dr := 0x0000000C#32
  csctrl := 0x00000000#32
  txbuf := none
  rxbuf := none
  irq := false
  cs := [true, true, true, true]
  rdata := none
  phase := .running
  numCs := Config.defaultNumCs
  requests := []
  trace := [.irqSet false, .csSet [true, true, true, true]]

end Sys2Proof.Machine
end

