-- ==== Sys2Proof/Machine/Ops.lean ====
section
/-! DEFINITION. The named operations over the state that the instructions share: one setter per cell, the buffers
(R100, R101), raising a condition (R180, R181, R184), the two recomputations (R140, R160), the exchange and the
drain (R120, R122), and how an operation ends (R80, R81). -/

namespace Sys2Proof.Machine

def State.setCr1 (s : State) (v : Word) : State := { s with cr1 := v }
def State.setCr2 (s : State) (v : Word) : State := { s with cr2 := v }
def State.setSr (s : State) (v : Word) : State := { s with sr := v }
def State.setDr (s : State) (v : Word) : State := { s with dr := v }
def State.setCsctrl (s : State) (v : Word) : State := { s with csctrl := v }
def State.setTxbuf (s : State) (b : Option Byte) : State := { s with txbuf := b }
def State.setRxbuf (s : State) (b : Option Byte) : State := { s with rxbuf := b }
def State.setIrq (s : State) (level : Bool) : State := { s with irq := level }
def State.setCs (s : State) (levels : List Bool) : State := { s with cs := levels }
def State.setRdata (s : State) (r : Option Word) : State := { s with rdata := r }
def State.setPhase (s : State) (p : Phase) : State := { s with phase := p }
def State.setRequests (s : State) (rs : List Request) : State := { s with requests := rs }

/-- Appends one output event to the trace (R128). -/
def State.record (s : State) (e : Event) : State := { s with trace := e :: s.trace }

/-! ### The buffers: `isEmpty`, `isFull`, `tryPush`, `tryPop` of a single slot -/

def State.txEmpty (s : State) : Bool := s.txbuf.isNone
def State.rxEmpty (s : State) : Bool := s.rxbuf.isNone

/-- Pushing to a full buffer is rejected, never queued, and keeps the byte held (R100). -/
def txPush (b : Byte) (s : State) : Option State :=
  match s.txbuf with
  | none => some (s.setTxbuf (some b))
  | some _ => none

def txPop (s : State) : Option (Byte × State) :=
  match s.txbuf with
  | none => none
  | some b => some (b, s.setTxbuf none)

/-- Pushing to a full buffer is rejected, never queued, and keeps the byte held (R101). -/
def rxPush (b : Byte) (s : State) : Option State :=
  match s.rxbuf with
  | none => some (s.setRxbuf (some b))
  | some _ => none

def rxPop (s : State) : Option (Byte × State) :=
  match s.rxbuf with
  | none => none
  | some b => some (b, s.setRxbuf none)

/-! ### Conditions -/

/-- `raise`: records the condition, never transfers control and never aborts the access. OVERRUN and UNDERRUN are
sticky bits of SR; an invalid offset is one diagnostic event and changes no state (R180, R181, R184, R187). -/
def raise (c : Condition) (s : State) : State :=
  match c with
  | .overrun => s.setSr (setBits s.sr srOverrun)
  | .underrun => s.setSr (setBits s.sr srUnderrun)
  | .invalidOffset e => s.record (.diag e)

/-! ### The two recomputations -/

/-- `UpdateIrq()`: rewrites TXE and RXNE from the buffers and drives `irq` whole (R140, R144). -/
def updateIrq (s : State) : State :=
  let level := irqFunction s.txEmpty (!s.rxEmpty) (errPending s.sr) s.cr2
  (((s.setSr (mirrorBuffers s.sr s.txEmpty (!s.rxEmpty))).setIrq level).record (.irqSet level))

/-- `UpdateCs()`: drives every line from CSCTRL (R160). -/
def updateCs (s : State) : State :=
  let levels := lineLevels s.csctrl s.numCs
  (s.setCs levels).record (.csSet levels)

/-! ### The serial port and the drain -/

/-- The chip-select levels a peer was last shown, if any (R122). -/
def shownLevels : List PeerEvent → Option (List Bool)
  | [] => none
  | .levels levels :: _ => some levels
  | .xfer _ _ :: older => shownLevels older

/-- What the peer has seen, newest first: its exchanges, and the chip-select levels where they changed. Driving the
levels already present is not an edge, and `irq` and diagnostics do not reach it (R122, R128, D25). -/
def peerView : List Event → List PeerEvent
  | [] => []
  | .xfer t r :: older => .xfer t r :: peerView older
  | .csSet levels :: older =>
    if shownLevels (peerView older) = some levels then peerView older
    else .levels levels :: peerView older
  | .irqSet _ :: older => peerView older
  | .diag _ :: older => peerView older

/-- The answer the peer gives to byte `t` in state `s` (R122). -/
def peerAnswer (s : State) (t : Byte) : Byte := Config.peer (peerView s.trace) s.cs t

/-- `Exchange(t)`: one byte out, one byte back, recorded as `Xfer` (R122, R128). -/
def exchange (t : Byte) (s : State) : Byte × State := (peerAnswer s t, s.record (.xfer t (peerAnswer s t)))

/-- Depth of the transmit buffer (R20). -/
abbrev txDepth : Nat := 1

/-- What becomes of an answer: pushed, or lost with OVERRUN when the receive buffer is full (R120, R123). -/
def deliver (r : Byte) (s : State) : State :=
  match rxPush r s with
  | some s' => s'
  | none => raise .overrun s

/-- "While the transmit buffer holds a byte", bounded by the number of bytes it can hold (R120, R124). -/
def drainLoop : Nat → State → State
  | 0, s => s
  | n + 1, s =>
    match txPop s with
    | none => s
    | some (t, s') => drainLoop n (deliver (exchange t s').1 (exchange t s').2)

/-- `Drain()`: sets BSY, empties the transmit buffer across the bus, clears BSY (R120, R125). -/
def drain (s : State) : State :=
  let s' := drainLoop txDepth (s.setSr (setBits s.sr srBsy))
  s'.setSr (clearBits s'.sr srBsy)

/-! ### The end of an operation -/

/-- How every bus access ends: the value returned is already fixed, then `UpdateIrq` runs, unconditionally
(R80, R81, R143). -/
def finish (r : Option Word) (s : State) : Host.Outcome State Fault Refusal := .next (updateIrq (s.setRdata r))

/-- The byte at window offset `a` in a dump of the cells, for a platform that must name bytes (R44, D4). A view: it
pops nothing and sets nothing. -/
def State.cellByte (s : State) (a : Nat) : Option Byte :=
  match a / 4 with
  | 0 => some (byteLane s.cr1 (a % 4))
  | 1 => some (byteLane s.cr2 (a % 4))
  | 2 => some (byteLane s.sr (a % 4))
  | 3 => some (byteLane s.dr (a % 4))
  | 4 => some (byteLane s.csctrl (a % 4))
  | _ => none

end Sys2Proof.Machine
end

