-- ==== Sys2Proof/Machine/ChipSelect.lean ====
section
/-! DEFINITION. The chip-select control register (R88, R89). -/

namespace Sys2Proof.Machine

/-- `RD CSCTRL` (R89): the stored control value, not the pin levels. -/
def execRdCsctrl (s : State) : Host.Outcome State Fault Refusal := finish (some s.csctrl) s

/-- `WR CSCTRL, v` (R88): stores eight bits and drives every line. -/
def execWrCsctrl (v : Word) (s : State) : Host.Outcome State Fault Refusal :=
  finish none (updateCs (s.setCsctrl (masked v csctrlMask)))

end Sys2Proof.Machine
end

