-- ==== Sys2Proof/Machine/Control.lean ====
section
/-! DEFINITION. The control registers CR1 and CR2: stored under a mask, read back verbatim (R82 to R85). -/

namespace Sys2Proof.Machine

/-- `RD CR1` (R83). -/
def execRdCr1 (s : State) : Host.Outcome State Fault Refusal := finish (some s.cr1) s

/-- `RD CR2` (R85). -/
def execRdCr2 (s : State) : Host.Outcome State Fault Refusal := finish (some s.cr2) s

/-- `WR CR1, v` (R82): SPE and MSTR are stored and nothing else happens (R12). -/
def execWrCr1 (v : Word) (s : State) : Host.Outcome State Fault Refusal := finish none (s.setCr1 (masked v cr1Mask))

/-- `WR CR2, v` (R84): the new enables act on `irq` in this same access. -/
def execWrCr2 (v : Word) (s : State) : Host.Outcome State Fault Refusal := finish none (s.setCr2 (masked v cr2Mask))

end Sys2Proof.Machine
end

