-- ==== Sys2Proof/Machine/Data.lean ====
section
/-! DEFINITION. The data register: a read pops the receive buffer, a write sends a byte (R102 to R105). -/

namespace Sys2Proof.Machine

/-- `ReadDR()`: the popped byte, or UNDERRUN and 0 (R102, R103). -/
def readDr (s : State) : Word × State :=
  match rxPop s with
  | some (b, s') => (zextByte b, s')
  | none => (0x00000000#32, raise .underrun s)

/-- `WriteDR(v)`: push and drain, or OVERRUN with the byte dropped (R104, R105). -/
def writeDr (v : Word) (s : State) : State :=
  match txPush (dataByte v) s with
  | some s' => drain s'
  | none => raise .overrun s

/-- `RD DR` (R102, R103). -/
def execRdDr (s : State) : Host.Outcome State Fault Refusal := finish (some (readDr s).1) (readDr s).2

/-- `WR DR, v` (R104, R105). -/
def execWrDr (v : Word) (s : State) : Host.Outcome State Fault Refusal := finish none (writeDr v s)

end Sys2Proof.Machine
end

