-- ==== Sys2Proof/Machine/Invalid.lean ====
section
/-! DEFINITION. Accesses at an offset that is none of the five: reported, not fatal (R90, R91). -/

namespace Sys2Proof.Machine

/-- `RD INVALID` (R90): one diagnostic, returns 0. -/
def execRdInvalid (offset : Word) (s : State) : Host.Outcome State Fault Refusal :=
  finish (some 0x00000000#32) (raise (.invalidOffset (.invalidRead offset)) s)

/-- `WR INVALID, v` (R91): one diagnostic, the write is dropped. -/
def execWrInvalid (offset v : Word) (s : State) : Host.Outcome State Fault Refusal :=
  finish none (raise (.invalidOffset (.invalidWrite offset v)) s)

end Sys2Proof.Machine
end

