-- ==== Sys2Proof/Machine/Lifecycle.lean ====
section
/-! DEFINITION. Reset (R220), and construction and attachment before it (R186, R224). -/

namespace Sys2Proof.Machine

/-- Every register cleared to its reset value and both buffers emptied (R220, R27). -/
def clearCells (s : State) : State :=
  ((((((s.setCr1 0x00000000#32).setCr2 0x00000000#32).setSr 0x00000002#32).setDr 0x0000000C#32).setCsctrl
    0x00000000#32).setTxbuf none).setRxbuf none

/-- `RESET` (R220): clears, recomputes the chip selects, then the interrupt. It returns nothing and starts the run
phase (R224). -/
def execReset (s : State) : Host.Outcome State Fault Refusal :=
  finish none (updateCs ((clearCells s).setPhase .running))

/-- Why the block cannot be built (R186, R187). -/
inductive ConstructError where
  | badChipSelectCount (n : Nat)
  | missingPeer
deriving DecidableEq, Repr

/-- Construct and attach (R224): takes the validated line count and whether a serial-bus peer is attached. What the
cells, buffers and outputs hold before the first reset is not specified (R28): it is the argument `powerOn`, any
state at all. -/
def construct (numCs : Nat) (peerAttached : Bool) (powerOn : State) : Except ConstructError State :=
  if Config.legalNumCs numCs then
    if peerAttached then
      .ok { powerOn with numCs := numCs, phase := .awaitingReset, rdata := none, requests := [], trace := [] }
    else .error .missingPeer
  else .error (.badChipSelectCount numCs)

end Sys2Proof.Machine
end

