-- ==== Sys2Proof/Machine/Status.lean ====
section
/-! DEFINITION. The status register: a read without side effect, a write that clears error flags (R86, R87). -/

namespace Sys2Proof.Machine

/-- `RD SR` (R87). -/
def execRdSr (s : State) : Host.Outcome State Fault Refusal := finish (some s.sr) s

/-- `WR SR, v` (R86): write 1 to clear OVERRUN and UNDERRUN; nothing is stored. -/
def execWrSr (v : Word) (s : State) : Host.Outcome State Fault Refusal :=
  finish none (s.setSr (clearBits s.sr (masked v srClearMask)))

end Sys2Proof.Machine
end

