-- ==== Sys2Proof/Machine/Dispatch.lean ====
section
/-! DEFINITION. The one dispatch: each operation of the opcode table to its meaning (R63, R80, R81). -/

namespace Sys2Proof.Machine

def exec (i : Instr) (s : State) : Host.Outcome State Fault Refusal :=
  match i with
  | .rdCr1 => Sys2Proof.Machine.execRdCr1 s
  | .rdCr2 => Sys2Proof.Machine.execRdCr2 s
  | .rdSr => Sys2Proof.Machine.execRdSr s
  | .rdDr => Sys2Proof.Machine.execRdDr s
  | .rdCsctrl => Sys2Proof.Machine.execRdCsctrl s
  | .wrCr1 v => Sys2Proof.Machine.execWrCr1 v s
  | .wrCr2 v => Sys2Proof.Machine.execWrCr2 v s
  | .wrSr v => Sys2Proof.Machine.execWrSr v s
  | .wrDr v => Sys2Proof.Machine.execWrDr v s
  | .wrCsctrl v => Sys2Proof.Machine.execWrCsctrl v s
  | .rdInvalid offset => Sys2Proof.Machine.execRdInvalid offset s
  | .wrInvalid offset v => Sys2Proof.Machine.execWrInvalid offset v s
  | .reset => Sys2Proof.Machine.execReset s

end Sys2Proof.Machine
end

