-- ==== Sys2Proof/Machine/Map.lean ====
section
/-! DEFINITION. The address map of the register window (R10, R42): five offsets, matched whole. -/

namespace Sys2Proof.Machine

abbrev offCr1    : Word := 0x00#32
abbrev offCr2    : Word := 0x04#32
abbrev offSr     : Word := 0x08#32
abbrev offDr     : Word := 0x0C#32
abbrev offCsctrl : Word := 0x10#32

/-- The five decoded offsets (R42). -/
abbrev regOffsets : List Word := [offCr1, offCr2, offSr, offDr, offCsctrl]

/-- Exact match of the whole offset: no alias, no mirror, no rounding (R42, R45, R92). -/
def isRegOffset (offset : Word) : Bool := regOffsets.contains offset

end Sys2Proof.Machine
end

