-- ==== Sys2Proof/WellFormed.lean ====
section
/-! DEFINITION. Which terms of `Instr` stand for an operation of the block: an invalid-offset operation must not
name one of the five register offsets, which are other rows of the table (R62, R63). -/

namespace Sys2Proof

def Instr.wf : Instr → Bool
  | .rdCr1 => true
  | .rdCr2 => true
  | .rdSr => true
  | .rdDr => true
  | .rdCsctrl => true
  | .wrCr1 _ => true
  | .wrCr2 _ => true
  | .wrSr _ => true
  | .wrDr _ => true
  | .wrCsctrl _ => true
  | .rdInvalid offset => !Machine.isRegOffset offset
  | .wrInvalid offset _ => !Machine.isRegOffset offset
  | .reset => true

/-- `SEL i` needs a line that exists (R70); every other pseudo-transaction is well formed. -/
def Pseudo.wf (numCs : Nat) : Pseudo → Bool
  | .sel line => decide (line < numCs)
  | .clrErr => true
  | .clrOvr => true
  | .clrUdr => true
  | .desel => true
  | .xfer _ => true
  | .irqEn _ => true

end Sys2Proof
end

