-- ==== Sys2Proof/Decode.lean ====
section
/-! DEFINITION. From an input of the block to its operation and back (R41, R43, R51, R60 to R66, R69, R70, R92). -/

namespace Sys2Proof

/-- The selector `S = {we, offset[31:0]}`, 33 bits (R62). -/
def BusTxn.selector (t : BusTxn) : BitVec 33 := BitVec.ofBool t.we ++ t.offset

/-- The operation of a transaction, from `we` and `offset` alone (R62, R63, R80, R81, R92). Total: an offset that
matches none of the five is an invalid-offset access, not an error (R66). -/
def decodeBus (t : BusTxn) : Instr :=
  if t.we then
    if t.offset = Machine.offCr1 then .wrCr1 t.wdata
    else if t.offset = Machine.offCr2 then .wrCr2 t.wdata
    else if t.offset = Machine.offSr then .wrSr t.wdata
    else if t.offset = Machine.offDr then .wrDr t.wdata
    else if t.offset = Machine.offCsctrl then .wrCsctrl t.wdata
    else .wrInvalid t.offset t.wdata
  else
    if t.offset = Machine.offCr1 then .rdCr1
    else if t.offset = Machine.offCr2 then .rdCr2
    else if t.offset = Machine.offSr then .rdSr
    else if t.offset = Machine.offDr then .rdDr
    else if t.offset = Machine.offCsctrl then .rdCsctrl
    else .rdInvalid t.offset

/-- `BASE <= addr < BASE + WINDOW_BYTES` (R41). -/
abbrev inWindow (addr : Nat) : Prop := Config.base ≤ addr ∧ addr < Config.base + Config.windowBytes

/-- The transaction at `addr - BASE` of an access to the window (R41); a fetch and a width other than 4 bytes are
rejected by name (R43, R51). -/
def memTxn (kind : AccessKind) (addr bytes : Nat) : Except Reject BusTxn :=
  match kind with
  | .fetch => .error (.instructionFetch addr)
  | .read =>
    if bytes = 4 then .ok ⟨false, BitVec.ofNat 32 (addr - Config.base), 0#32⟩
    else .error (.accessWidth bytes)
  | .write v =>
    if bytes = 4 then .ok ⟨true, BitVec.ofNat 32 (addr - Config.base), v⟩
    else .error (.accessWidth bytes)

/-- What any input asks of the block. Total. -/
def decode : Request → Decoded
  | .bus t => .op (decodeBus t)
  | .reset => .op .reset
  | .mem kind addr bytes =>
    if inWindow addr then
      match memTxn kind addr bytes with
      | .ok t => .op (decodeBus t)
      | .error why => .rejected why
    else .elsewhere

/-- The operation, if there is one. -/
def Decoded.op? : Decoded → Option Instr
  | .op i => some i
  | .elsewhere => none
  | .rejected _ => none

/-- The input that performs a well-formed operation (R63); a read's unused `wdata` is 0. -/
def encode : Instr → Request
  | .rdCr1 => .bus ⟨false, Machine.offCr1, 0#32⟩
  | .rdCr2 => .bus ⟨false, Machine.offCr2, 0#32⟩
  | .rdSr => .bus ⟨false, Machine.offSr, 0#32⟩
  | .rdDr => .bus ⟨false, Machine.offDr, 0#32⟩
  | .rdCsctrl => .bus ⟨false, Machine.offCsctrl, 0#32⟩
  | .wrCr1 v => .bus ⟨true, Machine.offCr1, v⟩
  | .wrCr2 v => .bus ⟨true, Machine.offCr2, v⟩
  | .wrSr v => .bus ⟨true, Machine.offSr, v⟩
  | .wrDr v => .bus ⟨true, Machine.offDr, v⟩
  | .wrCsctrl v => .bus ⟨true, Machine.offCsctrl, v⟩
  | .rdInvalid offset => .bus ⟨false, offset, 0#32⟩
  | .wrInvalid offset v => .bus ⟨true, offset, v⟩
  | .reset => .reset

/-- A transaction as one number: the selector in bits 32:0, then `wdata` in bits 64:33 ("its selector `S` followed
by `wdata`", R69). -/
def txnOfBits (bits : Nat) : BusTxn :=
  let sel := BitVec.ofNat 33 bits
  ⟨sel.getLsbD 32, sel.extractLsb' 0 32, BitVec.ofNat 32 (bits / 2 ^ 33)⟩

/-- The input that `nbits` bits of a table row stand for. A row to which the table gives no bits is `RESET`, which
arrives on its own port (R61, R62); a number of more than 65 bits is no transaction. -/
def tableRequest (nbits w : Nat) : Option Request :=
  if nbits = 0 then some .reset
  else if w % 2 ^ nbits < 2 ^ 65 then some (.bus (txnOfBits (w % 2 ^ nbits)))
  else none

/-- What the decoder reads from a word numbered as spec/opcode_table.json numbers it. -/
def decodeTableWord (nbits w : Nat) : Option Instr :=
  match tableRequest nbits w with
  | some r => (decode r).op?
  | none => none

/-- A row of the opcode table that a selector can choose: its mnemonic, `match` and `mask` (R62). -/
structure TableRow where
  mnemonic : String
  pattern  : BitVec 33
  mask     : BitVec 33
deriving DecidableEq, Repr

/-- The twelve `BUS` rows of the opcode table, in its order (R62, R63). The thirteenth, `RESET`, has no selector. -/
def opcodeTable : List TableRow :=
  [⟨"RD_CR1",     0x000000000#33, 0x1FFFFFFFF#33⟩,
   ⟨"RD_CR2",     0x000000004#33, 0x1FFFFFFFF#33⟩,
   ⟨"RD_SR",      0x000000008#33, 0x1FFFFFFFF#33⟩,
   ⟨"RD_DR",      0x00000000C#33, 0x1FFFFFFFF#33⟩,
   ⟨"RD_CSCTRL",  0x000000010#33, 0x1FFFFFFFF#33⟩,
   ⟨"WR_CR1",     0x100000000#33, 0x1FFFFFFFF#33⟩,
   ⟨"WR_CR2",     0x100000004#33, 0x1FFFFFFFF#33⟩,
   ⟨"WR_SR",      0x100000008#33, 0x1FFFFFFFF#33⟩,
   ⟨"WR_DR",      0x10000000C#33, 0x1FFFFFFFF#33⟩,
   ⟨"WR_CSCTRL",  0x100000010#33, 0x1FFFFFFFF#33⟩,
   ⟨"RD_INVALID", 0x000000000#33, 0x100000000#33⟩,
   ⟨"WR_INVALID", 0x100000000#33, 0x100000000#33⟩]

/-- A row takes a selector when the bits under its mask equal its pattern. -/
def TableRow.takes (r : TableRow) (sel : BitVec 33) : Bool := sel &&& r.mask == r.pattern

/-- "A transaction selects the first row, in table order, with `(S & mask) = match`" (R62). -/
def selectRow (sel : BitVec 33) : Option TableRow := opcodeTable.find? fun r => r.takes sel

/-- The table's name of an operation (R63). -/
def Instr.mnemonic : Instr → String
  | .rdCr1 => "RD_CR1"
  | .rdCr2 => "RD_CR2"
  | .rdSr => "RD_SR"
  | .rdDr => "RD_DR"
  | .rdCsctrl => "RD_CSCTRL"
  | .wrCr1 _ => "WR_CR1"
  | .wrCr2 _ => "WR_CR2"
  | .wrSr _ => "WR_SR"
  | .wrDr _ => "WR_DR"
  | .wrCsctrl _ => "WR_CSCTRL"
  | .rdInvalid _ => "RD_INVALID"
  | .wrInvalid _ _ => "WR_INVALID"
  | .reset => "RESET"

/-- A hexadecimal digit, upper case. -/
def hexDigit (d : BitVec 4) : Char :=
  if d.toNat < 10 then Char.ofNat (48 + d.toNat) else Char.ofNat (55 + d.toNat)

/-- The eight digits of a word, most significant first. -/
def hexDigits (v : Word) : List Char := [7, 6, 5, 4, 3, 2, 1, 0].map fun k => hexDigit (v.extractLsb' (4 * k) 4)

/-- A 32-bit numeral of the textual form (R69). -/
def hexText (v : Word) : String := "0x" ++ String.ofList (hexDigits v)

/-- The textual form of R69. -/
def Instr.text : Instr → String
  | .rdCr1 => "RD CR1"
  | .rdCr2 => "RD CR2"
  | .rdSr => "RD SR"
  | .rdDr => "RD DR"
  | .rdCsctrl => "RD CSCTRL"
  | .wrCr1 v => "WR CR1, " ++ hexText v
  | .wrCr2 v => "WR CR2, " ++ hexText v
  | .wrSr v => "WR SR, " ++ hexText v
  | .wrDr v => "WR DR, " ++ hexText v
  | .wrCsctrl v => "WR CSCTRL, " ++ hexText v
  | .rdInvalid offset => "RDO " ++ hexText offset
  | .wrInvalid offset v => "WRO " ++ hexText offset ++ ", " ++ hexText v
  | .reset => "RESET"

/-- The expansion of a pseudo-transaction (R70). -/
def Pseudo.expand : Pseudo → List Instr
  | .clrErr => [.wrSr 0x0000000C#32]
  | .clrOvr => [.wrSr 0x00000008#32]
  | .clrUdr => [.wrSr 0x00000004#32]
  | .sel line => [.wrCsctrl (0x11#32 <<< line)]
  | .desel => [.wrCsctrl 0x00000000#32]
  | .xfer b => [.wrDr b, .rdDr]
  | .irqEn m => [.wrCr2 m]

end Sys2Proof
end

