-- ==== Sys2Proof/Machine/Fetch.lean ====
section
/-! DEFINITION. How the next operation comes to the block: from the inputs waiting at its ports (R5, R26, R48). -/

namespace Sys2Proof.Machine

/-- What taking the next input gives. -/
inductive Fetched where
  /-- No input is waiting: the block has no step of its own (R5). -/
  | idle
  | refused (why : Refusal)
  /-- The access is to an address outside the window: it is taken off the ports' list, and the block does not see it
  (R41). -/
  | passed (s : State)
  /-- The operation to perform, on the state in which its input is taken. -/
  | run (i : Instr) (s : State)
deriving DecidableEq, Repr

/-- The block accepts anything while it runs, and only a reset before its first reset (R28, R224). -/
def accepts (p : Phase) (i : Instr) : Bool :=
  match p with
  | .running => true
  | .awaitingReset => i == .reset

/-- Takes the oldest waiting input and decodes it (R48). -/
def fetch (s : State) : Fetched :=
  match s.requests with
  | [] => .idle
  | r :: rest =>
    match decode r with
    | .rejected why => .refused (.rejected why)
    | .elsewhere => .passed (s.setRequests rest)
    | .op i => if accepts s.phase i then .run i (s.setRequests rest) else .refused .beforeReset

/-- The state with one more input, the next to be taken; a bus transaction needs the run phase. -/
def placeRequest (s : State) (r : Request) : State := (s.setPhase .running).setRequests (r :: s.requests)

end Sys2Proof.Machine
end

