-- ==== Sys2Proof/Machine/Step.lean ====
section
/-! DEFINITION. One step: one input, taken and performed whole (R47), or nothing when none is waiting (R5). -/

namespace Sys2Proof.Machine

def step (s : State) : Host.Outcome State Fault Refusal :=
  match fetch s with
  | .idle => .next s
  | .refused why => .refused why
  | .passed s' => .next s'
  | .run i s' => exec i s'

/-- The state with the input that a word of the opcode table stands for waiting first at the ports, in the run
phase. This stands for the bus master (or the reset source) issuing it (log entry 2). A number of more than 65 bits
is no transaction and places nothing. -/
def State.withFetchWord (s : State) (nbits w : Nat) : State :=
  match tableRequest nbits w with
  | some r => placeRequest s r
  | none => s

end Sys2Proof.Machine
end

