-- ==== Sys2Proof/Machine/Compact.lean ====
section
/-! DEFINITION. The compact description of the block at an access boundary (R31): ten values that determine all the
rest, with the block's behaviour written on them alone. A second machine, to compare `exec` with. -/

namespace Sys2Proof.Machine

/-- The tuple of R31: CR1's two bits, `x[CR2][7:4]`, OVERRUN, UNDERRUN, `rxbuf`, `x[CSCTRL][7:0]`. -/
structure Compact where
  spe      : Bool
  mstr     : Bool
  txeie    : Bool
  rxneie   : Bool
  errie    : Bool
  ssoe     : Bool
  overrun  : Bool
  underrun : Bool
  rxbuf    : Option Byte
  csctrl   : BitVec 8
deriving DecidableEq, Repr

/-- The compact description of a state. -/
def State.compact (s : State) : Compact where
  spe := s.cr1.getLsbD 6
  mstr := s.cr1.getLsbD 2
  txeie := s.cr2.getLsbD 7
  rxneie := s.cr2.getLsbD 6
  errie := s.cr2.getLsbD 5
  ssoe := s.cr2.getLsbD 4
  overrun := s.sr.getLsbD 3
  underrun := s.sr.getLsbD 2
  rxbuf := s.rxbuf
  csctrl := s.csctrl.truncate 8

/-- A register word with the given low byte, most significant bit first, and zeros above. -/
def lowByte (b7 b6 b5 b4 b3 b2 b1 b0 : Bool) : Word :=
  (BitVec.ofBool b7 ++ BitVec.ofBool b6 ++ BitVec.ofBool b5 ++ BitVec.ofBool b4 ++ BitVec.ofBool b3 ++
    BitVec.ofBool b2 ++ BitVec.ofBool b1 ++ BitVec.ofBool b0).zeroExtend 32

/-! The registers and outputs as functions of the compact description (R30 INV1 to INV8). -/

def Compact.cr1 (c : Compact) : Word := lowByte false c.spe false false false c.mstr false false

def Compact.cr2 (c : Compact) : Word := lowByte c.txeie c.rxneie c.errie c.ssoe false false false false

def Compact.sr (c : Compact) : Word := lowByte false false false false c.overrun c.underrun true c.rxbuf.isSome

def Compact.irq (c : Compact) : Bool :=
  c.txeie || (c.rxneie && c.rxbuf.isSome) || (c.errie && (c.overrun || c.underrun))

def Compact.line (c : Compact) (i : Nat) : Bool := !(c.csctrl.getLsbD i && c.csctrl.getLsbD (4 + i))

/-- One operation on the compact description: the description after it and the value returned. `answer` is what the
peer says to a byte sent, and is used by `WR DR` alone. -/
def Compact.op (i : Instr) (answer : Byte) (c : Compact) : Compact × Option Word :=
  match i with
  | .rdCr1 => (c, some c.cr1)
  | .rdCr2 => (c, some c.cr2)
  | .rdSr => (c, some c.sr)
  | .rdDr =>
    match c.rxbuf with
    | some b => ({ c with rxbuf := none }, some (b.zeroExtend 32))
    | none => ({ c with underrun := true }, some 0#32)
  | .rdCsctrl => (c, some (c.csctrl.zeroExtend 32))
  | .wrCr1 v => ({ c with spe := v.getLsbD 6, mstr := v.getLsbD 2 }, none)
  | .wrCr2 v =>
    ({ c with txeie := v.getLsbD 7, rxneie := v.getLsbD 6, errie := v.getLsbD 5, ssoe := v.getLsbD 4 }, none)
  | .wrSr v => ({ c with overrun := c.overrun && !v.getLsbD 3, underrun := c.underrun && !v.getLsbD 2 }, none)
  | .wrDr _ =>
    match c.rxbuf with
    | some _ => ({ c with overrun := true }, none)
    | none => ({ c with rxbuf := some answer }, none)
  | .wrCsctrl v => ({ c with csctrl := v.truncate 8 }, none)
  | .rdInvalid _ => (c, some 0#32)
  | .wrInvalid _ _ => (c, none)
  | .reset =>
    ({ spe := false, mstr := false, txeie := false, rxneie := false, errie := false, ssoe := false,
       overrun := false, underrun := false, rxbuf := none, csctrl := 0#8 }, none)

end Sys2Proof.Machine
end

