-- ==== Sys2Proof/Safety.lean ====
section
/-! DEFINITION. The terms claims are stated in: the interrupt and chip-select levels as functions of the registers
(R141, R161), what an operation leaves alone, the invariants of an access boundary (R30) and of the lifecycle
(R224), and runs of complete operations. -/

namespace Sys2Proof.Machine

/-- `irq` as a function of SR and CR2 (R141). -/
def irqOf (s : State) : Bool :=
  (s.sr.getLsbD 1 && s.cr2.getLsbD 7) || (s.sr.getLsbD 0 && s.cr2.getLsbD 6) ||
    ((s.sr.getLsbD 3 || s.sr.getLsbD 2) && s.cr2.getLsbD 5)

/-- What the closing `UpdateIrq` leaves in every state an operation ends in (R18, R140 to R143). -/
structure Settled (t : State) : Prop where
  txe   : t.sr.getLsbD 1 = t.txbuf.isNone
  rxne  : t.sr.getLsbD 0 = t.rxbuf.isSome
  level : t.irq = irqOf t

/-- The line levels agree with CSCTRL: there are `numCs` of them, and line `i` is at 0 exactly when its enable bit
and its active bit are both 1 (R160, R161, R163). -/
def LinesFollow (t : State) : Prop :=
  t.cs.length = t.numCs ∧
    ∀ i, i < t.numCs → t.cs[i]? = some (!(t.csctrl.getLsbD i && t.csctrl.getLsbD (4 + i)))

/-- The pieces of state an operation may be said to leave alone. SR is spoken of bit by bit (`SrKeepsBut`); `irq`,
`rdata` and the trace change in every operation. -/
inductive Cell where
  | cr1 | cr2 | dr | csctrl | txbuf | rxbuf | cs | phase
deriving DecidableEq, Repr

/-- Everything outside `changed` is as it was, and so are `NUM_CS` and the waiting inputs. -/
structure KeepsBut (changed : List Cell) (s t : State) : Prop where
  cr1      : Cell.cr1 ∉ changed → t.cr1 = s.cr1
  cr2      : Cell.cr2 ∉ changed → t.cr2 = s.cr2
  dr       : Cell.dr ∉ changed → t.dr = s.dr
  csctrl   : Cell.csctrl ∉ changed → t.csctrl = s.csctrl
  txbuf    : Cell.txbuf ∉ changed → t.txbuf = s.txbuf
  rxbuf    : Cell.rxbuf ∉ changed → t.rxbuf = s.rxbuf
  cs       : Cell.cs ∉ changed → t.cs = s.cs
  phase    : Cell.phase ∉ changed → t.phase = s.phase
  numCs    : t.numCs = s.numCs
  requests : t.requests = s.requests

/-- Every bit of SR outside `bits` is as it was. -/
def SrKeepsBut (bits : List Nat) (s t : State) : Prop :=
  ∀ i, i ∉ bits → t.sr.getLsbD i = s.sr.getLsbD i

/-- The invariants INV1 to INV9 of an access boundary (R30), with the number of lines legal (R4). -/
structure AccessBoundary (s : State) : Prop where
  inv1    : s.txbuf = none
  inv2    : s.sr.getLsbD 1 = true
  inv3    : s.sr.getLsbD 0 = s.rxbuf.isSome
  inv4    : s.sr.getLsbD 7 = false
  inv5    : s.sr &&& 0xFFFFFF70#32 = 0#32
  inv6cr1 : s.cr1 &&& ~~~0x44#32 = 0#32
  inv6cr2 : s.cr2 &&& ~~~0xF0#32 = 0#32
  inv6cs  : s.csctrl &&& ~~~0xFF#32 = 0#32
  inv7    : s.irq = irqOf s
  inv8    : LinesFollow s
  inv9    : s.dr = 0x0000000C#32
  lines   : Config.legalNumCs s.numCs

/-- What holds in every state of the lifecycle (R224): the number of lines is legal, and once a reset has run the
block stands at an access boundary between any two steps. -/
structure Lifecycle (s : State) : Prop where
  lines    : Config.legalNumCs s.numCs
  boundary : s.phase = .running → AccessBoundary s

/-- The trace's newest entries agree with the outputs: the last `IrqSet` is `irq`, and the levels the peer was last
shown are `cs` (R128). -/
structure TraceAgrees (s : State) : Prop where
  irq : s.trace.head? = some (.irqSet s.irq)
  cs  : shownLevels (peerView s.trace) = some s.cs

/-- How many exchanges a trace records. -/
def exchanges : List Event → Nat
  | [] => 0
  | .xfer _ _ :: older => exchanges older + 1
  | .csSet _ :: older => exchanges older
  | .irqSet _ :: older => exchanges older
  | .diag _ :: older => exchanges older

/-- Whether an operation is a write of DR, the one that sends a byte. -/
def sends : Instr → Bool
  | .rdCr1 => false
  | .rdCr2 => false
  | .rdSr => false
  | .rdDr => false
  | .rdCsctrl => false
  | .wrCr1 _ => false
  | .wrCr2 _ => false
  | .wrSr _ => false
  | .wrDr _ => true
  | .wrCsctrl _ => false
  | .rdInvalid _ => false
  | .wrInvalid _ _ => false
  | .reset => false

/-- Complete operations one after another, each from the state the one before it left (R48). -/
def runOps : List Instr → State → Host.Outcome State Fault Refusal
  | [], s => .next s
  | i :: rest, s =>
    match exec i s with
    | .next t => runOps rest t
    | .fault f => .fault f
    | .refused r => .refused r

end Sys2Proof.Machine
end

