-- ==== Sys2Proof/Certificates/Slice0/Obligations.lean ====
section
/-! DEFINITION. The statements for the provers. Each says whose rule of the spec it formalises; offsets, masks and
bit numbers are written out from the spec's tables, not taken from the model's constants.

Four fields of the state are the model's own, and a clause about one of them says what the model's log chose, not what
a rule says: `trace` (log entry 7: the events of R128, recorded newest first, diagnostics always), `rdata` (log entry
8: what the last operation returned, nothing after a write or a reset), `phase` (log entry 5) and `requests` (log
entry 2). That the closing `UpdateIrq` runs after an invalid offset too is the spec's decision D18, and that level 0
is the asserted level of a chip-select line is its decision D11. -/

open Sys2Proof Sys2Proof.Machine

/-! ### Encoding and decoding -/

/-- Decoding the input that performs a well-formed operation gives the operation back, every operand at every value
(R62, R63). -/
def Obligations.DecodeUndoesEncode : Prop :=
  ∀ i : Instr, i.wf = true → decode (encode i) = .op i

/-- Every bus transaction is one well-formed operation, never `RESET`, and encoding it gives the transaction back,
up to the `wdata` that a read ignores (R60, R63, R66). -/
def Obligations.EveryTransactionIsOneOperation : Prop :=
  ∀ t : BusTxn, ∃ i : Instr,
    decode (.bus t) = .op i ∧ i.wf = true ∧ i ≠ .reset ∧
      encode i = .bus { t with wdata := if t.we then t.wdata else 0#32 }

/-- R62: the selector is `{we, offset}`; the operation is that of the first table row that takes the selector, and
depends on the selector alone; the ten register rows compare every bit and the two catch-all rows that end the table
compare `we` alone; `RESET` is selected by its own port and by no selector. -/
def Obligations.DecoderSelectsTheFirstMatchingRow : Prop :=
  (∀ t : BusTxn,
    t.selector.getLsbD 32 = t.we ∧ t.selector.extractLsb' 0 32 = t.offset ∧
      (opcodeTable.find? fun r => t.selector &&& r.mask == r.pattern).map TableRow.mnemonic =
        some (decodeBus t).mnemonic ∧
      (∀ w : Word, (decodeBus { t with wdata := w }).mnemonic = (decodeBus t).mnemonic) ∧
      decodeBus t ≠ .reset) ∧
    (opcodeTable.map TableRow.mask =
      List.replicate 10 0x1FFFFFFFF#33 ++ List.replicate 2 0x100000000#33) ∧
    decode .reset = .op .reset

/-- R63, R92: the decode compares the whole offset with the five register offsets. A match performs the read or write
of that register, whatever `wdata` is; an offset that matches none, misaligned or beyond, is an invalid offset; and
`RESET` comes from its own port. -/
def Obligations.OffsetsDecodeExactly : Prop :=
  (∀ w : Word,
    decodeBus ⟨false, 0x00#32, w⟩ = .rdCr1 ∧ decodeBus ⟨false, 0x04#32, w⟩ = .rdCr2 ∧
    decodeBus ⟨false, 0x08#32, w⟩ = .rdSr ∧ decodeBus ⟨false, 0x0C#32, w⟩ = .rdDr ∧
    decodeBus ⟨false, 0x10#32, w⟩ = .rdCsctrl ∧
    decodeBus ⟨true, 0x00#32, w⟩ = .wrCr1 w ∧ decodeBus ⟨true, 0x04#32, w⟩ = .wrCr2 w ∧
    decodeBus ⟨true, 0x08#32, w⟩ = .wrSr w ∧ decodeBus ⟨true, 0x0C#32, w⟩ = .wrDr w ∧
    decodeBus ⟨true, 0x10#32, w⟩ = .wrCsctrl w) ∧
  (∀ (offset w : Word),
    (offset ∉ [0x00#32, 0x04#32, 0x08#32, 0x0C#32, 0x10#32] →
      decodeBus ⟨false, offset, w⟩ = .rdInvalid offset ∧ decodeBus ⟨true, offset, w⟩ = .wrInvalid offset w) ∧
    (offset.toNat % 4 ≠ 0 → offset ∉ [0x00#32, 0x04#32, 0x08#32, 0x0C#32, 0x10#32])) ∧
  (∀ t : BusTxn, decode (.bus t) = .op (decodeBus t)) ∧ decode .reset = .op .reset

/-- Words written out from R63 (the selector in bits 32:0, `wdata` above it) decode to the operations they stand
for. -/
def Obligations.WrittenOutWordsDecode : Prop :=
  decodeTableWord 40 0x00000000C = some .rdDr ∧
    decodeTableWord 40 0x000000008 = some .rdSr ∧
    decodeTableWord 40 0x000000014 = some (.rdInvalid 0x14#32) ∧
    decodeTableWord 72 (0x100000004 + 0x00000040 * 2 ^ 33) = some (.wrCr2 0x00000040#32) ∧
    decodeTableWord 72 (0x10000000C + 0xFFFFFF80 * 2 ^ 33) = some (.wrDr 0xFFFFFF80#32) ∧
    decodeTableWord 72 (0x10000000D + 0x00000055 * 2 ^ 33) = some (.wrInvalid 0x0D#32 0x00000055#32) ∧
    decodeTableWord 0 0 = some .reset

/-- R41: inside `BASE <= addr < BASE + WINDOW_BYTES` a 4-byte read or write is the bus access at `addr - BASE`; an
address outside never reaches the block; the window holds the five registers and is a multiple of 4. -/
def Obligations.PlatformAccessIsTheBusAccess : Prop :=
  0x14 ≤ Config.windowBytes ∧ Config.windowBytes % 4 = 0 ∧
    ∀ (addr : Nat) (v : Word),
      (Config.base ≤ addr → addr < Config.base + Config.windowBytes →
        ∃ offset : Word, offset.toNat = addr - Config.base ∧
          decode (.mem .read addr 4) = decode (.bus ⟨false, offset, 0#32⟩) ∧
          decode (.mem (.write v) addr 4) = decode (.bus ⟨true, offset, v⟩)) ∧
      (addr < Config.base ∨ Config.base + Config.windowBytes ≤ addr → ∀ (k : AccessKind) (n : Nat),
        decode (.mem k addr n) = .elsewhere)

/-! ### Stepping -/

/-- A step takes the oldest waiting input and performs its operation whole, on the state without that input; an access
outside the window never reaches the block, so the step only takes it from the waiting inputs (R41); with no input it
changes nothing (R5, R47, R48). -/
def Obligations.StepPerformsTheNextInput : Prop :=
  ∀ s : State,
    (s.requests = [] → step s = .next s) ∧
    ∀ (r : Request) (rest : List Request), s.requests = r :: rest →
      (∀ i, decode r = .op i → s.phase = .running ∨ i = .reset →
        step s = exec i { s with requests := rest }) ∧
      (decode r = .elsewhere → step s = .next { s with requests := rest }) ∧
      (∀ why, decode r = .rejected why → step s = .refused (.rejected why))

/-- R43, R51: an access to the window that is not 4 bytes wide is refused by name, and so is an instruction fetch;
no effect happens. -/
def Obligations.NarrowAccessesAndFetchesAreRefused : Prop :=
  ∀ (s : State) (rest : List Request) (addr n : Nat) (v : Word),
    Config.base ≤ addr → addr < Config.base + Config.windowBytes →
      step { s with requests := .mem .fetch addr n :: rest } = .refused (.rejected (.instructionFetch addr)) ∧
      (n ≠ 4 →
        step { s with requests := .mem .read addr n :: rest } = .refused (.rejected (.accessWidth n)) ∧
        step { s with requests := .mem (.write v) addr n :: rest } = .refused (.rejected (.accessWidth n)))

/-- No bus access is defined before the first reset: whatever input asks for an operation other than the reset, at the
bus port or at an address of the window, is refused by name, while a reset is performed and starts the run phase at an
access boundary (R28, R224). -/
def Obligations.AccessBeforeTheFirstResetIsRefused : Prop :=
  ∀ (s : State) (rest : List Request), s.phase = .awaitingReset → Config.legalNumCs s.numCs →
    (∀ b : BusTxn, step { s with requests := .bus b :: rest } = .refused .beforeReset) ∧
    (∀ (r : Request) (i : Instr), decode r = .op i → i ≠ .reset →
      step { s with requests := r :: rest } = .refused .beforeReset) ∧
    (∀ (addr : Nat) (v : Word), Config.base ≤ addr → addr < Config.base + Config.windowBytes →
      step { s with requests := .mem .read addr 4 :: rest } = .refused .beforeReset ∧
      step { s with requests := .mem (.write v) addr 4 :: rest } = .refused .beforeReset) ∧
    ∃ t, step { s with requests := .reset :: rest } = .next t ∧ t.phase = .running ∧ t.requests = rest ∧
      AccessBoundary t

/-- R7, R53: every operation completes, in every state; a read returns a value and nothing else does. -/
def Obligations.EveryOperationCompletes : Prop :=
  ∀ (i : Instr) (s : State), ∃ t, exec i s = .next t ∧
    (t.rdata.isSome = true ↔
      i ∈ [.rdCr1, .rdCr2, .rdSr, .rdDr, .rdCsctrl] ∨ ∃ offset, i = .rdInvalid offset)

/-- R41: an access outside the window leaves the block as it was, before its first reset and after it, whatever its
kind and width; a refusal comes from the two causes the spec names inside the window, or from an access before the
first reset, and from nothing else (R7). -/
def Obligations.OutsideAccessesDoNotReachTheBlock : Prop :=
  (∀ (s : State) (rest : List Request) (k : AccessKind) (addr n : Nat),
    addr < Config.base ∨ Config.base + Config.windowBytes ≤ addr →
      step { s with requests := .mem k addr n :: rest } = .next { s with requests := rest }) ∧
  ∀ (s : State) (why : Refusal), step s = .refused why →
    ∃ (r : Request) (rest : List Request), s.requests = r :: rest ∧
      ((s.phase = .awaitingReset ∧ r ≠ .reset ∧ why = .beforeReset) ∨
       ∃ (k : AccessKind) (addr n : Nat), r = .mem k addr n ∧
        Config.base ≤ addr ∧ addr < Config.base + Config.windowBytes ∧
        ((k = .fetch ∧ why = .rejected (.instructionFetch addr)) ∨
         (k ≠ .fetch ∧ n ≠ 4 ∧ why = .rejected (.accessWidth n))))

/-- A running block takes its waiting inputs one a step and in their order, if none is one it refuses: after `k` steps
it runs, and the first `k` inputs, and only they, are gone (R41, R47, R48, R53). -/
def Obligations.EveryInputTakesOneStep : Prop :=
  ∀ s : State, s.phase = .running → (∀ r ∈ s.requests, ∀ why, decode r ≠ .rejected why) →
    ∀ k, k ≤ s.requests.length →
      ∃ t, core.run k s = .next t ∧ t.requests = s.requests.drop k ∧ t.phase = .running

/-! ### The operations, one by one -/

/-- R83, R85, R87, R89: a read of CR1, CR2, SR or CSCTRL returns the stored value verbatim and has no effect but the
closing `UpdateIrq`, which at an access boundary changes nothing; and the values such a read can return there. -/
def Obligations.ReadReturnsTheStoredRegister : Prop :=
  (∀ (s : State) (offset w : Word) (i : Instr) (v : Word),
    (offset, i, v) ∈ [(0x00#32, Instr.rdCr1, s.cr1), (0x04#32, Instr.rdCr2, s.cr2), (0x08#32, Instr.rdSr, s.sr),
      (0x10#32, Instr.rdCsctrl, s.csctrl)] →
      decodeBus ⟨false, offset, w⟩ = i ∧
      ∃ t, exec i s = .next t ∧ t.rdata = some v ∧ KeepsBut [] s t ∧ SrKeepsBut [0, 1] s t ∧ Settled t ∧
        t.trace = .irqSet t.irq :: s.trace ∧ (AccessBoundary s → t.sr = s.sr ∧ t.irq = s.irq)) ∧
  ∀ s : State, AccessBoundary s →
    s.cr1 ∈ [0x00#32, 0x04#32, 0x40#32, 0x44#32] ∧
    (s.cr2.toNat % 0x10 = 0 ∧ s.cr2.toNat ≤ 0xF0) ∧
    s.sr ∈ [0x02#32, 0x03#32, 0x06#32, 0x07#32, 0x0A#32, 0x0B#32, 0x0E#32, 0x0F#32] ∧
    s.csctrl.toNat ≤ 0xFF

/-- R82: `WR CR1, v` stores SPE (bit 6) and MSTR (bit 2), replaces the whole register, and does nothing else. -/
def Obligations.WriteCr1StoresTwoBits : Prop :=
  ∀ (v : Word) (s : State),
    decodeBus ⟨true, 0x00#32, v⟩ = .wrCr1 v ∧
    ∃ t, exec (.wrCr1 v) s = .next t ∧
      (∀ i, t.cr1.getLsbD i = (v.getLsbD i && decide (i = 6 ∨ i = 2))) ∧
      t.rdata = none ∧ KeepsBut [.cr1] s t ∧ SrKeepsBut [0, 1] s t ∧ Settled t ∧
      t.trace = .irqSet t.irq :: s.trace ∧ (AccessBoundary s → t.sr = s.sr ∧ t.irq = s.irq)

/-- R84: `WR CR2, v` stores bits 7 to 4, replaces the whole register, and recomputes `irq` with the new enables in
the same access; setting TXEIE asserts `irq` at an access boundary. -/
def Obligations.WriteCr2StoresTheEnables : Prop :=
  ∀ (v : Word) (s : State),
    decodeBus ⟨true, 0x04#32, v⟩ = .wrCr2 v ∧
    ∃ t, exec (.wrCr2 v) s = .next t ∧
      (∀ i, t.cr2.getLsbD i = (v.getLsbD i && decide (4 ≤ i ∧ i ≤ 7))) ∧
      t.rdata = none ∧ KeepsBut [.cr2] s t ∧ SrKeepsBut [0, 1] s t ∧ Settled t ∧
      t.trace = .irqSet t.irq :: s.trace ∧
      (AccessBoundary s → t.sr = s.sr ∧ (v.getLsbD 7 = true → t.irq = true))

/-- R86: `WR SR, v` clears OVERRUN where `v[3]` is 1 and UNDERRUN where `v[2]` is 1, can set neither, and touches no
other bit of SR and no buffer; `irq` is recomputed in the same access. -/
def Obligations.WriteSrClearsTheErrorFlags : Prop :=
  ∀ (v : Word) (s : State),
    decodeBus ⟨true, 0x08#32, v⟩ = .wrSr v ∧
    ∃ t, exec (.wrSr v) s = .next t ∧
      t.sr.getLsbD 3 = (s.sr.getLsbD 3 && !v.getLsbD 3) ∧
      t.sr.getLsbD 2 = (s.sr.getLsbD 2 && !v.getLsbD 2) ∧
      t.rdata = none ∧ KeepsBut [] s t ∧ SrKeepsBut [0, 1, 2, 3] s t ∧ Settled t ∧
      t.trace = .irqSet t.irq :: s.trace ∧
      (AccessBoundary s → t.sr = s.sr &&& ~~~(v &&& 0x0000000C#32))

/-- R88: `WR CSCTRL, v` stores bits 7 to 0, replaces the whole register, and drives every line from the new value;
`irq` and SR keep their values at an access boundary. -/
def Obligations.WriteCsctrlDrivesTheLines : Prop :=
  ∀ (v : Word) (s : State),
    decodeBus ⟨true, 0x10#32, v⟩ = .wrCsctrl v ∧
    ∃ t, exec (.wrCsctrl v) s = .next t ∧
      (∀ i, t.csctrl.getLsbD i = (v.getLsbD i && decide (i ≤ 7))) ∧ LinesFollow t ∧
      t.rdata = none ∧ KeepsBut [.csctrl, .cs] s t ∧ SrKeepsBut [0, 1] s t ∧ Settled t ∧
      t.trace = .irqSet t.irq :: .csSet t.cs :: s.trace ∧ (AccessBoundary s → t.sr = s.sr ∧ t.irq = s.irq)

/-- R102, R103: `RD DR` with a byte in the receive buffer pops it and returns it zero-extended; RXNE falls in the same
access; no error flag changes and no exchange happens. With the receive buffer empty it sets UNDERRUN and returns 0; the
error interrupt acts in the same access: at an access boundary `irq` is asserted if ERRIE is set and keeps its level
if ERRIE is clear. -/
def Obligations.ReadDrPopsOrUnderruns : Prop :=
  (∀ w : Word, decodeBus ⟨false, 0x0C#32, w⟩ = .rdDr) ∧
  (∀ (s : State) (b : Byte), s.rxbuf = some b →
    ∃ t, exec .rdDr s = .next t ∧ t.rdata = some (b.zeroExtend 32) ∧ t.rxbuf = none ∧
      t.sr.getLsbD 0 = false ∧ KeepsBut [.rxbuf] s t ∧ SrKeepsBut [0, 1] s t ∧ Settled t ∧
      t.trace = .irqSet t.irq :: s.trace) ∧
  ∀ s : State, s.rxbuf = none →
    ∃ t, exec .rdDr s = .next t ∧ t.rdata = some 0x00000000#32 ∧ t.sr.getLsbD 2 = true ∧
      t.sr.getLsbD 0 = false ∧ KeepsBut [] s t ∧ SrKeepsBut [0, 1, 2] s t ∧ Settled t ∧
      t.trace = .irqSet t.irq :: s.trace ∧
      (AccessBoundary s → t.irq = (s.irq || s.cr2.getLsbD 5))

/-- R104, R105: `WR DR, v` with the transmit buffer empty sends `v[7:0]` whatever the configuration holds, calls
`Exchange` once, and leaves the transmit buffer empty, BSY clear, TXE and RXNE set; the answer is kept if the receive
buffer had room, and otherwise lost with OVERRUN set and the old byte kept (R123). With the transmit buffer full it
sets OVERRUN, drops the new byte, keeps the byte held, and exchanges nothing; TXE is then 0. -/
def Obligations.WriteDrExchangesOrOverruns : Prop :=
  (∀ v : Word, decodeBus ⟨true, 0x0C#32, v⟩ = .wrDr v) ∧
  (∀ (v : Word) (s : State), s.txbuf = none →
    ∃ t, exec (.wrDr v) s = .next t ∧
      t.txbuf = none ∧ t.sr.getLsbD 7 = false ∧ t.sr.getLsbD 1 = true ∧ t.sr.getLsbD 0 = true ∧
      (s.rxbuf = none →
        t.rxbuf = some (Config.peer (peerView s.trace) s.cs (v.truncate 8)) ∧ SrKeepsBut [0, 1, 7] s t) ∧
      (∀ q, s.rxbuf = some q →
        t.rxbuf = some q ∧ t.sr.getLsbD 3 = true ∧ SrKeepsBut [0, 1, 3, 7] s t) ∧
      t.rdata = none ∧ KeepsBut [.rxbuf] s t ∧ Settled t ∧
      t.trace =
        .irqSet t.irq ::
          .xfer (v.truncate 8) (Config.peer (peerView s.trace) s.cs (v.truncate 8)) :: s.trace) ∧
  ∀ (v : Word) (s : State) (q : Byte), s.txbuf = some q →
    ∃ t, exec (.wrDr v) s = .next t ∧ t.txbuf = some q ∧ t.sr.getLsbD 3 = true ∧ t.sr.getLsbD 1 = false ∧
      t.rdata = none ∧ KeepsBut [] s t ∧ SrKeepsBut [0, 1, 3] s t ∧ Settled t ∧
      t.trace = .irqSet t.irq :: s.trace

/-- R90, R91: an access at any other offset returns 0 or is dropped, emits one diagnostic, and changes nothing at an
access boundary. -/
def Obligations.InvalidAccessIsReportedOnly : Prop :=
  ∀ (s : State) (offset v w : Word),
    (offset ∉ [0x00#32, 0x04#32, 0x08#32, 0x0C#32, 0x10#32] →
      decodeBus ⟨false, offset, w⟩ = .rdInvalid offset ∧ decodeBus ⟨true, offset, v⟩ = .wrInvalid offset v) ∧
    (∃ t, exec (.rdInvalid offset) s = .next t ∧ t.rdata = some 0x00000000#32 ∧ KeepsBut [] s t ∧
      SrKeepsBut [0, 1] s t ∧ Settled t ∧ t.trace = .irqSet t.irq :: .diag (.invalidRead offset) :: s.trace ∧
      (AccessBoundary s → t.sr = s.sr ∧ t.irq = s.irq)) ∧
    (∃ t, exec (.wrInvalid offset v) s = .next t ∧ t.rdata = none ∧ KeepsBut [] s t ∧
      SrKeepsBut [0, 1] s t ∧ Settled t ∧ t.trace = .irqSet t.irq :: .diag (.invalidWrite offset v) :: s.trace ∧
      (AccessBoundary s → t.sr = s.sr ∧ t.irq = s.irq))

/-- R220: `RESET` clears every register to its power-on value, empties both buffers, then drives every line to 1 and
`irq` to 0, from any state; it exchanges nothing and reports nothing. -/
def Obligations.ResetEstablishesThePowerOnState : Prop :=
  ∀ s : State, ∃ t, exec .reset s = .next t ∧
    t.cr1 = 0x00000000#32 ∧ t.cr2 = 0x00000000#32 ∧ t.sr = 0x00000002#32 ∧ t.dr = 0x0000000C#32 ∧
    t.csctrl = 0x00000000#32 ∧ t.txbuf = none ∧ t.rxbuf = none ∧ t.irq = false ∧
    t.cs = List.replicate s.numCs true ∧ t.rdata = none ∧ t.phase = .running ∧
    t.numCs = s.numCs ∧ t.requests = s.requests ∧
    t.trace = .irqSet false :: .csSet (List.replicate s.numCs true) :: s.trace

/-! ### Reset and lifecycle -/

/-- R221: the state after a reset does not depend on the state before it, and a second reset in a row changes
nothing of the block. -/
def Obligations.ResetForgetsThePast : Prop :=
  ∀ s s' t t' : State, s.numCs = s'.numCs → exec .reset s = .next t → exec .reset s' = .next t' →
    t' = { t with requests := t'.requests, trace := t'.trace } ∧
    ∃ u, exec .reset t = .next u ∧ u = { t with trace := u.trace }

/-- R27: the values of the reset state, and what a bus read returns straight after reset. -/
def Obligations.ResetStateValues : Prop :=
  State.reset.cr1 = 0x00000000#32 ∧ State.reset.cr2 = 0x00000000#32 ∧ State.reset.sr = 0x00000002#32 ∧
    State.reset.dr = 0x0000000C#32 ∧ State.reset.csctrl = 0x00000000#32 ∧ State.reset.txbuf = none ∧
    State.reset.rxbuf = none ∧ State.reset.irq = false ∧
    (∀ i, i < State.reset.numCs → State.reset.cs[i]? = some true) ∧
    (∀ (i : Instr) (v : Word), (i, v) ∈ [(Instr.rdCr1, 0x00000000#32), (.rdCr2, 0x00000000#32),
        (.rdSr, 0x00000002#32), (.rdCsctrl, 0x00000000#32)] →
      ∃ t, exec i State.reset = .next t ∧ t.rdata = some v ∧ t.sr = 0x00000002#32) ∧
    ∃ t, exec .rdDr State.reset = .next t ∧ t.rdata = some 0x00000000#32 ∧ t.sr = 0x00000006#32

/-- Whatever the block held before, construction with the default four lines and the first reset lead to
`State.reset` (R3, R28, R224). -/
def Obligations.FirstResetGivesTheResetState : Prop :=
  ∀ powerOn s : State, construct 4 true powerOn = .ok s → exec .reset s = .next State.reset

/-- R186: construction refuses a line count outside 1 to 4 and refuses a missing peer, and succeeds otherwise; what
it builds has that line count and waits for its first reset. -/
def Obligations.ConstructionRefusesBadConfiguration : Prop :=
  ∀ (n : Nat) (peerAttached : Bool) (powerOn : State),
    (n < 1 ∨ 4 < n → construct n peerAttached powerOn = .error (.badChipSelectCount n)) ∧
    (1 ≤ n → n ≤ 4 → construct n false powerOn = .error .missingPeer) ∧
    (1 ≤ n → n ≤ 4 → ∃ s, construct n true powerOn = .ok s ∧ s.numCs = n ∧ s.phase = .awaitingReset ∧
      Lifecycle s)

/-! ### The helpers -/

/-- R120, V5c: the drain on every state. With nothing to send it leaves the buffers; with a byte and room it sends
the byte and keeps the answer; with a byte and no room it sends the byte, keeps the old one and sets OVERRUN. BSY is
clear after it and no other bit of SR moves. -/
def Obligations.DrainOnEveryState : Prop :=
  ∀ s : State,
    (s.txbuf = none → drain s = { s with sr := s.sr &&& ~~~0x00000080#32 }) ∧
    (∀ b, s.txbuf = some b → s.rxbuf = none →
      drain s = { s with
        txbuf := none, rxbuf := some (Config.peer (peerView s.trace) s.cs b), sr := s.sr &&& ~~~0x00000080#32,
        trace := .xfer b (Config.peer (peerView s.trace) s.cs b) :: s.trace }) ∧
    (∀ b q, s.txbuf = some b → s.rxbuf = some q →
      drain s = { s with
        txbuf := none, sr := (s.sr ||| 0x00000008#32) &&& ~~~0x00000080#32,
        trace := .xfer b (Config.peer (peerView s.trace) s.cs b) :: s.trace })

/-- R124: the drain's loop body runs at most once, whatever bound the loop is given, and the transmit buffer is
empty after it; it runs exactly once when the buffer holds a byte. -/
def Obligations.DrainLoopRunsAtMostOnce : Prop :=
  ∀ (n : Nat) (s : State),
    drainLoop (n + 1) s = drainLoop 1 s ∧ (drainLoop (n + 1) s).txbuf = none ∧
      exchanges (drainLoop (n + 1) s).trace = exchanges s.trace + (if s.txbuf.isSome then 1 else 0)

/-- R145: a second `UpdateIrq` changes nothing, and at an access boundary the first changes nothing. -/
def Obligations.UpdateIrqIsIdempotent : Prop :=
  ∀ s : State,
    updateIrq (updateIrq s) = { updateIrq s with trace := .irqSet (updateIrq s).irq :: (updateIrq s).trace } ∧
    (AccessBoundary s → updateIrq s = { s with trace := .irqSet s.irq :: s.trace })

/-- R160, R161, R162: `UpdateCs` drives line `i` to 0 when enable bit `i` and active bit `4+i` are both 1 and to 1
in the three other cases, each line from its own two bits, and touches nothing else; a write of CSCTRL and a reset
run it on the value they leave in CSCTRL. -/
def Obligations.UpdateCsDecodesEveryLine : Prop :=
  ∀ s : State, (updateCs s).cs.length = s.numCs ∧
    updateCs s = { s with cs := (updateCs s).cs, trace := .csSet (updateCs s).cs :: s.trace } ∧
    (∀ i, i < s.numCs →
      (s.csctrl.getLsbD i = false → (updateCs s).cs[i]? = some true) ∧
      (s.csctrl.getLsbD i = true → (updateCs s).cs[i]? = some (!s.csctrl.getLsbD (4 + i)))) ∧
    ∀ (i : Instr) (t : State), i = .reset ∨ (∃ v, i = .wrCsctrl v) → exec i s = .next t → t.cs = (updateCs t).cs

/-! ### The whole machine -/

/-- R141, R142, R143: every operation, from every state, ends with TXE and RXNE equal to the buffers' condition and
`irq` equal to the OR of the three enabled conditions, whatever `irq` was (R144). -/
def Obligations.EveryOperationSettlesTheInterrupt : Prop :=
  ∀ (i : Instr) (s t : State), exec i s = .next t →
    t.sr.getLsbD 1 = t.txbuf.isNone ∧ t.sr.getLsbD 0 = t.rxbuf.isSome ∧
    (t.irq = true ↔
      (t.sr.getLsbD 1 = true ∧ t.cr2.getLsbD 7 = true) ∨ (t.sr.getLsbD 0 = true ∧ t.cr2.getLsbD 6 = true) ∨
      ((t.sr.getLsbD 3 = true ∨ t.sr.getLsbD 2 = true) ∧ t.cr2.getLsbD 5 = true)) ∧
    ∀ level, exec i { s with irq := level } = .next t

/-- R93: the output events of each operation, in their order: inside a write of DR the exchange, with the levels the
last chip-select update left; inside a write of CSCTRL and a reset the chip-select update; for an invalid offset the
diagnostic; last, and exactly once, the interrupt update. -/
def Obligations.EventsOfEveryOperation : Prop :=
  ∀ (i : Instr) (s t : State), exec i s = .next t →
    ∃ inner : List Event, t.trace = .irqSet t.irq :: (inner ++ s.trace) ∧
      match i with
      | .wrDr v =>
        inner = if s.txbuf.isNone then
          [.xfer (v.truncate 8) (Config.peer (peerView s.trace) s.cs (v.truncate 8))] else []
      | .wrCsctrl _ => inner = [.csSet t.cs]
      | .reset => inner = [.csSet t.cs]
      | .rdInvalid offset => inner = [.diag (.invalidRead offset)]
      | .wrInvalid offset v => inner = [.diag (.invalidWrite offset v)]
      | .rdCr1 | .rdCr2 | .rdSr | .rdDr | .rdCsctrl | .wrCr1 _ | .wrCr2 _ | .wrSr _ => inner = []

/-- Each piece of state is changed by its own operations only (R10, R15, R21, R23): a control register by its write,
the DR cell by reset alone, the buffers by the DR accesses, the lines by a write of CSCTRL; `RESET` may change any of
them, nothing changes `NUM_CS`. -/
def Obligations.StateChangesOnlyByItsOwnOperations : Prop :=
  ∀ (i : Instr) (s t : State), exec i s = .next t →
    t.numCs = s.numCs ∧
    (i ≠ .reset →
      t.dr = s.dr ∧
      ((∀ v, i ≠ .wrCr1 v) → t.cr1 = s.cr1) ∧
      ((∀ v, i ≠ .wrCr2 v) → t.cr2 = s.cr2) ∧
      ((∀ v, i ≠ .wrCsctrl v) → t.csctrl = s.csctrl ∧ t.cs = s.cs) ∧
      ((∀ v, i ≠ .wrDr v) → t.txbuf = s.txbuf) ∧
      ((∀ v, i ≠ .wrDr v) → i ≠ .rdDr → t.rxbuf = s.rxbuf))

/-- R17: an error flag, once set, stays set through any operations but a write of SR with a 1 at its place and a
reset. -/
def Obligations.ErrorFlagsAreSticky : Prop :=
  ∀ (k : Nat) (ops : List Instr) (s t : State), k = 2 ∨ k = 3 →
    (∀ i ∈ ops, i ≠ .reset ∧ ∀ v, i = .wrSr v → v.getLsbD k = false) →
    s.sr.getLsbD k = true → runOps ops s = .next t → t.sr.getLsbD k = true

/-- An error flag rises only where the spec says so: OVERRUN in a write of DR that finds a buffer occupied, UNDERRUN
in a read of DR that finds the receive buffer empty (R180, R181, R187, R194). -/
def Obligations.ErrorFlagsRiseOnlyInDrAccesses : Prop :=
  ∀ (i : Instr) (s t : State), exec i s = .next t →
    (s.sr.getLsbD 3 = false → t.sr.getLsbD 3 = true →
      (∃ v, i = .wrDr v) ∧ (s.txbuf.isSome = true ∨ s.rxbuf.isSome = true)) ∧
    (s.sr.getLsbD 2 = false → t.sr.getLsbD 2 = true → i = .rdDr ∧ s.rxbuf = none)

/-- R182: the error flags gate nothing. Whatever OVERRUN and UNDERRUN hold before it, an operation does the same,
except for the two flags themselves, the value a read of SR returns, and the error term of the interrupt. -/
def Obligations.ErrorFlagsGateNothing : Prop :=
  ∀ (i : Instr) (w : Word) (s t : State),
    (∀ k, k ≠ 2 → k ≠ 3 → w.getLsbD k = s.sr.getLsbD k) → exec i s = .next t →
    ∃ t', exec i { s with sr := w } = .next t' ∧
      t' = { t with sr := t'.sr, irq := t'.irq, rdata := t'.rdata, trace := t'.trace } ∧
      SrKeepsBut [2, 3] t t' ∧ (i ≠ .rdSr → t'.rdata = t.rdata) ∧ t'.trace.tail = t.trace.tail ∧
      (t.cr2.getLsbD 5 = false → t'.irq = t.irq)

/-- R193: at every access boundary at which TXEIE is 1, `irq` is 1, whatever else holds. -/
def Obligations.TxeieHoldsTheInterrupt : Prop :=
  ∀ (i : Instr) (s t : State), AccessBoundary s → exec i s = .next t → t.cr2.getLsbD 7 = true → t.irq = true

/-- How software lowers `irq` (R196): a read of DR leaves the transmit and error terms, clearing both error flags
leaves the buffer terms, clearing every enable leaves none; a read of SR acknowledges nothing. -/
def Obligations.InterruptFallsWithItsLastTerm : Prop :=
  ∀ (s : State) (b : Byte), AccessBoundary s → s.rxbuf = some b →
    (∃ t, exec .rdDr s = .next t ∧
      t.irq = (s.cr2.getLsbD 7 || ((s.sr.getLsbD 3 || s.sr.getLsbD 2) && s.cr2.getLsbD 5))) ∧
    (∃ t, exec (.wrSr 0x0000000C#32) s = .next t ∧ t.irq = (s.cr2.getLsbD 7 || s.cr2.getLsbD 6)) ∧
    (∃ t, exec (.wrCr2 0x00000000#32) s = .next t ∧ t.irq = false) ∧
    (∃ t, exec .rdSr s = .next t ∧ t.irq = s.irq)

/-- R126: nothing gates the exchange. A write of DR does the same to the buffers, to SR and on the serial port
whatever CR1, CR2, CSCTRL and the DR cell hold, and it always exchanges when the transmit buffer is empty. -/
def Obligations.NothingGatesTheExchange : Prop :=
  ∀ (v c1 c2 cc d : Word) (s t : State), exec (.wrDr v) s = .next t →
    (∃ t', exec (.wrDr v) { s with cr1 := c1, cr2 := c2, csctrl := cc, dr := d } = .next t' ∧
      t'.txbuf = t.txbuf ∧ t'.rxbuf = t.rxbuf ∧ t'.sr = t.sr ∧ t'.cs = t.cs ∧ t'.trace.tail = t.trace.tail) ∧
    (s.txbuf = none → exchanges t.trace = exchanges s.trace + 1)

/-- SPE, MSTR and SSOE are read by no rule (R12, R13): apart from the registers that hold them and from a read of
those registers, every operation does the same whatever they are. -/
def Obligations.StoredOnlyBitsChangeNothing : Prop :=
  ∀ (i : Instr) (a c : Word) (s t : State),
    i ≠ .rdCr1 → i ≠ .rdCr2 → (∀ k, k ≠ 4 → c.getLsbD k = s.cr2.getLsbD k) → exec i s = .next t →
    ∃ t', exec i { s with cr1 := a, cr2 := c } = .next t' ∧ t' = { t with cr1 := t'.cr1, cr2 := t'.cr2 } ∧
      (t'.cr1 = t.cr1 ∨ t'.cr1 = a) ∧ (t'.cr2 = t.cr2 ∨ t'.cr2 = c)

/-- The peer's answer depends on nothing inside the block (R122): an operation that neither sends a byte nor drives
the lines leaves the peer's view and the levels as they were, so the next answer and every later one; and so does an
operation that drives the levels already present, a write of CSCTRL or a reset (R128, D25). -/
def Obligations.PeerSeesExchangesAndLevelsOnly : Prop :=
  ∀ (i : Instr) (s t : State), exec i s = .next t →
    (sends i = false → (∀ v, i ≠ .wrCsctrl v) → i ≠ .reset →
      peerView t.trace = peerView s.trace ∧ t.cs = s.cs ∧ ∀ b, peerAnswer t b = peerAnswer s b) ∧
    ((∃ v, i = .wrCsctrl v) ∨ i = .reset → TraceAgrees s → t.cs = s.cs →
      peerView t.trace = peerView s.trace ∧ ∀ b, peerAnswer t b = peerAnswer s b)

/-- From an access boundary, a list of operations exchanges as many bytes as it has writes of DR (R104, R126). -/
def Obligations.ExchangesEqualDrWrites : Prop :=
  ∀ (ops : List Instr) (s t : State), AccessBoundary s → runOps ops s = .next t →
    exchanges t.trace = exchanges s.trace + ops.countP sends

/-! ### Laws of sequences -/

/-- R107: from an access boundary with the receive buffer empty, `WR DR, b` leaves the transmit buffer empty, the
peer's answer in the receive buffer and RXNE set; a following `RD DR` returns the answer, leaves both buffers empty
and the error flags as they were, one byte having been exchanged; a second read sets UNDERRUN. -/
def Obligations.WriteThenReadReturnsTheAnswer : Prop :=
  ∀ (s : State) (b : Word), AccessBoundary s → s.rxbuf = none →
    ∃ m t, exec (.wrDr b) s = .next m ∧ m.txbuf = none ∧
      m.rxbuf = some (Config.peer (peerView s.trace) s.cs (b.truncate 8)) ∧ m.sr.getLsbD 0 = true ∧
      exec .rdDr m = .next t ∧
      t.rdata = some ((Config.peer (peerView s.trace) s.cs (b.truncate 8)).zeroExtend 32) ∧
      t.txbuf = none ∧ t.rxbuf = none ∧ t.sr = s.sr ∧ exchanges t.trace = exchanges s.trace + 1 ∧
      ∃ u, exec .rdDr t = .next u ∧ u.rdata = some 0#32 ∧ u.sr.getLsbD 2 = true

/-- R108: from an access boundary with the receive buffer empty, two writes with no read between them send both
bytes in order, keep the first answer, lose the second and set OVERRUN; a read then returns the first answer and
leaves OVERRUN set. -/
def Obligations.BackToBackWritesKeepTheFirstAnswer : Prop :=
  ∀ (s : State) (a b : Word), AccessBoundary s → s.rxbuf = none →
    ∃ t r2 l1 l2, runOps [.wrDr a, .wrDr b] s = .next t ∧
      t.rxbuf = some (Config.peer (peerView s.trace) s.cs (a.truncate 8)) ∧ t.sr.getLsbD 3 = true ∧
      t.trace = .irqSet l2 :: .xfer (b.truncate 8) r2 :: .irqSet l1 ::
        .xfer (a.truncate 8) (Config.peer (peerView s.trace) s.cs (a.truncate 8)) :: s.trace ∧
      ∃ u, exec .rdDr t = .next u ∧
        u.rdata = some ((Config.peer (peerView s.trace) s.cs (a.truncate 8)).zeroExtend 32) ∧
        u.sr.getLsbD 3 = true

/-- A write then a read of CR1, CR2 or CSCTRL returns the value under the register's mask, from any state: writes
replace and do not merge, and reserved bits never persist (R11, R233). -/
def Obligations.WriteThenReadReturnsTheMaskedValue : Prop :=
  ∀ (v : Word) (s : State),
    (∃ t, runOps [.wrCr1 v, .rdCr1] s = .next t ∧ t.rdata = some (v &&& 0x00000044#32)) ∧
    (∃ t, runOps [.wrCr2 v, .rdCr2] s = .next t ∧ t.rdata = some (v &&& 0x000000F0#32)) ∧
    (∃ t, runOps [.wrCsctrl v, .rdCsctrl] s = .next t ∧ t.rdata = some (v &&& 0x000000FF#32))

/-- The pseudo-transactions have the effects R70 lists, from an access boundary. -/
def Obligations.PseudoTransactionsHaveTheirEffects : Prop :=
  ∀ s : State, AccessBoundary s →
    (∃ t, runOps Pseudo.clrErr.expand s = .next t ∧ t.sr = s.sr &&& ~~~0x0000000C#32) ∧
    (∃ t, runOps Pseudo.clrOvr.expand s = .next t ∧ t.sr = s.sr &&& ~~~0x00000008#32) ∧
    (∃ t, runOps Pseudo.clrUdr.expand s = .next t ∧ t.sr = s.sr &&& ~~~0x00000004#32) ∧
    (∀ line, (Pseudo.sel line).wf s.numCs = true →
      ∃ t, runOps (Pseudo.sel line).expand s = .next t ∧
        ∀ i, i < s.numCs → t.cs[i]? = some (decide (i ≠ line))) ∧
    (∃ t, runOps Pseudo.desel.expand s = .next t ∧ ∀ i, i < s.numCs → t.cs[i]? = some true) ∧
    (∀ m, ∃ t, runOps (Pseudo.irqEn m).expand s = .next t ∧ t.cr2 = m &&& 0x000000F0#32) ∧
    (∀ b, s.rxbuf = none → ∃ t, runOps (Pseudo.xfer b).expand s = .next t ∧
      t.rdata = some ((Config.peer (peerView s.trace) s.cs (b.truncate 8)).zeroExtend 32))

/-- R44: bits 7:0 of a register are the byte at its own offset, bits 15:8 the next, and so on; the DATA byte of DR is
at 0x0C. -/
def Obligations.RegisterBytesAreLittleEndian : Prop :=
  ∀ (s : State) (offset k : Nat) (w : Word),
    (offset, w) ∈ [(0x00, s.cr1), (0x04, s.cr2), (0x08, s.sr), (0x0C, s.dr), (0x10, s.csctrl)] → k < 4 →
      ∃ b : Byte, s.cellByte (offset + k) = some b ∧ ∀ j, j < 8 → b.getLsbD j = w.getLsbD (8 * k + j)

/-! ### Invariants and refinement -/

/-- Every step from a state of the lifecycle leads to a state of the lifecycle: once a reset has run, the invariants
INV1 to INV9 of R30 hold between any two steps, for every legal number of lines. -/
def Obligations.StepKeepsTheLifecycleInvariant : Prop :=
  ∀ s t : State, Lifecycle s → step s = .next t → Lifecycle t

/-- R30: after a complete operation from an access boundary the invariants hold again; after `RESET` they hold
whatever the state before. Their consequences: SR is one of eight values, and TXEIE holds `irq` at 1. -/
def Obligations.OperationsReachAnAccessBoundary : Prop :=
  ∀ (i : Instr) (s t : State), exec i s = .next t →
    (AccessBoundary s → AccessBoundary t) ∧ (i = .reset → Config.legalNumCs s.numCs → AccessBoundary t) ∧
    (AccessBoundary t → (∃ e ∈ [0x00#32, 0x04#32, 0x08#32, 0x0C#32], ∃ r ∈ [0x00#32, 0x01#32],
        t.sr = 0x02#32 ||| e ||| r) ∧ (t.cr2.getLsbD 7 = true → t.irq = true))

/-- The reset state meets the invariants. -/
def Obligations.ResetStateMeetsTheInvariants : Prop :=
  Lifecycle State.reset ∧ AccessBoundary State.reset ∧ TraceAgrees State.reset

/-- The trace keeps agreeing with the outputs through every step, and a reset makes it agree (R128). -/
def Obligations.TraceKeepsAgreeingWithTheOutputs : Prop :=
  (∀ s t : State, TraceAgrees s → step s = .next t → TraceAgrees t) ∧
    ∀ s t : State, exec .reset s = .next t → TraceAgrees t

/-- R31: at an access boundary the registers and outputs are functions of the compact description. -/
def Obligations.CompactDescriptionDeterminesTheState : Prop :=
  ∀ s : State, AccessBoundary s →
    s.cr1 = s.compact.cr1 ∧ s.cr2 = s.compact.cr2 ∧ s.sr = s.compact.sr ∧
    s.csctrl = s.compact.csctrl.zeroExtend 32 ∧ s.txbuf = none ∧ s.rxbuf = s.compact.rxbuf ∧
    s.irq = s.compact.irq ∧ ∀ i, i < s.numCs → s.cs[i]? = some (s.compact.line i)

/-- From an access boundary, the full machine does what the machine of compact descriptions does, operation by
operation: the same description after it and the same value returned, with the peer's answer for a byte sent
(R31). -/
def Obligations.OperationsRefineTheCompactMachine : Prop :=
  ∀ (i : Instr) (answer : Byte) (s : State), AccessBoundary s →
    (∀ v, i = .wrDr v → answer = Config.peer (peerView s.trace) s.cs (v.truncate 8)) →
    ∃ t, exec i s = .next t ∧ (t.compact, t.rdata) = Compact.op i answer s.compact
end

