-- ==== Sys2Proof/Laws/State.lean ====
section
/-! SUPPORT. One lemma per field per update of the state, true by `rfl`, so that no proof unfolds an update. -/

namespace Sys2Proof.Machine

variable (s : State)

@[simp] theorem setCr1_cr1 (v : Word) : (s.setCr1 v).cr1 = v := rfl
@[simp] theorem setCr1_cr2 (v : Word) : (s.setCr1 v).cr2 = s.cr2 := rfl
@[simp] theorem setCr1_sr (v : Word) : (s.setCr1 v).sr = s.sr := rfl
@[simp] theorem setCr1_dr (v : Word) : (s.setCr1 v).dr = s.dr := rfl
@[simp] theorem setCr1_csctrl (v : Word) : (s.setCr1 v).csctrl = s.csctrl := rfl
@[simp] theorem setCr1_txbuf (v : Word) : (s.setCr1 v).txbuf = s.txbuf := rfl
@[simp] theorem setCr1_rxbuf (v : Word) : (s.setCr1 v).rxbuf = s.rxbuf := rfl
@[simp] theorem setCr1_irq (v : Word) : (s.setCr1 v).irq = s.irq := rfl
@[simp] theorem setCr1_cs (v : Word) : (s.setCr1 v).cs = s.cs := rfl
@[simp] theorem setCr1_rdata (v : Word) : (s.setCr1 v).rdata = s.rdata := rfl
@[simp] theorem setCr1_phase (v : Word) : (s.setCr1 v).phase = s.phase := rfl
@[simp] theorem setCr1_numCs (v : Word) : (s.setCr1 v).numCs = s.numCs := rfl
@[simp] theorem setCr1_requests (v : Word) : (s.setCr1 v).requests = s.requests := rfl
@[simp] theorem setCr1_trace (v : Word) : (s.setCr1 v).trace = s.trace := rfl

@[simp] theorem setCr2_cr1 (v : Word) : (s.setCr2 v).cr1 = s.cr1 := rfl
@[simp] theorem setCr2_cr2 (v : Word) : (s.setCr2 v).cr2 = v := rfl
@[simp] theorem setCr2_sr (v : Word) : (s.setCr2 v).sr = s.sr := rfl
@[simp] theorem setCr2_dr (v : Word) : (s.setCr2 v).dr = s.dr := rfl
@[simp] theorem setCr2_csctrl (v : Word) : (s.setCr2 v).csctrl = s.csctrl := rfl
@[simp] theorem setCr2_txbuf (v : Word) : (s.setCr2 v).txbuf = s.txbuf := rfl
@[simp] theorem setCr2_rxbuf (v : Word) : (s.setCr2 v).rxbuf = s.rxbuf := rfl
@[simp] theorem setCr2_irq (v : Word) : (s.setCr2 v).irq = s.irq := rfl
@[simp] theorem setCr2_cs (v : Word) : (s.setCr2 v).cs = s.cs := rfl
@[simp] theorem setCr2_rdata (v : Word) : (s.setCr2 v).rdata = s.rdata := rfl
@[simp] theorem setCr2_phase (v : Word) : (s.setCr2 v).phase = s.phase := rfl
@[simp] theorem setCr2_numCs (v : Word) : (s.setCr2 v).numCs = s.numCs := rfl
@[simp] theorem setCr2_requests (v : Word) : (s.setCr2 v).requests = s.requests := rfl
@[simp] theorem setCr2_trace (v : Word) : (s.setCr2 v).trace = s.trace := rfl

@[simp] theorem setSr_cr1 (v : Word) : (s.setSr v).cr1 = s.cr1 := rfl
@[simp] theorem setSr_cr2 (v : Word) : (s.setSr v).cr2 = s.cr2 := rfl
@[simp] theorem setSr_sr (v : Word) : (s.setSr v).sr = v := rfl
@[simp] theorem setSr_dr (v : Word) : (s.setSr v).dr = s.dr := rfl
@[simp] theorem setSr_csctrl (v : Word) : (s.setSr v).csctrl = s.csctrl := rfl
@[simp] theorem setSr_txbuf (v : Word) : (s.setSr v).txbuf = s.txbuf := rfl
@[simp] theorem setSr_rxbuf (v : Word) : (s.setSr v).rxbuf = s.rxbuf := rfl
@[simp] theorem setSr_irq (v : Word) : (s.setSr v).irq = s.irq := rfl
@[simp] theorem setSr_cs (v : Word) : (s.setSr v).cs = s.cs := rfl
@[simp] theorem setSr_rdata (v : Word) : (s.setSr v).rdata = s.rdata := rfl
@[simp] theorem setSr_phase (v : Word) : (s.setSr v).phase = s.phase := rfl
@[simp] theorem setSr_numCs (v : Word) : (s.setSr v).numCs = s.numCs := rfl
@[simp] theorem setSr_requests (v : Word) : (s.setSr v).requests = s.requests := rfl
@[simp] theorem setSr_trace (v : Word) : (s.setSr v).trace = s.trace := rfl

@[simp] theorem setDr_cr1 (v : Word) : (s.setDr v).cr1 = s.cr1 := rfl
@[simp] theorem setDr_cr2 (v : Word) : (s.setDr v).cr2 = s.cr2 := rfl
@[simp] theorem setDr_sr (v : Word) : (s.setDr v).sr = s.sr := rfl
@[simp] theorem setDr_dr (v : Word) : (s.setDr v).dr = v := rfl
@[simp] theorem setDr_csctrl (v : Word) : (s.setDr v).csctrl = s.csctrl := rfl
@[simp] theorem setDr_txbuf (v : Word) : (s.setDr v).txbuf = s.txbuf := rfl
@[simp] theorem setDr_rxbuf (v : Word) : (s.setDr v).rxbuf = s.rxbuf := rfl
@[simp] theorem setDr_irq (v : Word) : (s.setDr v).irq = s.irq := rfl
@[simp] theorem setDr_cs (v : Word) : (s.setDr v).cs = s.cs := rfl
@[simp] theorem setDr_rdata (v : Word) : (s.setDr v).rdata = s.rdata := rfl
@[simp] theorem setDr_phase (v : Word) : (s.setDr v).phase = s.phase := rfl
@[simp] theorem setDr_numCs (v : Word) : (s.setDr v).numCs = s.numCs := rfl
@[simp] theorem setDr_requests (v : Word) : (s.setDr v).requests = s.requests := rfl
@[simp] theorem setDr_trace (v : Word) : (s.setDr v).trace = s.trace := rfl

@[simp] theorem setCsctrl_cr1 (v : Word) : (s.setCsctrl v).cr1 = s.cr1 := rfl
@[simp] theorem setCsctrl_cr2 (v : Word) : (s.setCsctrl v).cr2 = s.cr2 := rfl
@[simp] theorem setCsctrl_sr (v : Word) : (s.setCsctrl v).sr = s.sr := rfl
@[simp] theorem setCsctrl_dr (v : Word) : (s.setCsctrl v).dr = s.dr := rfl
@[simp] theorem setCsctrl_csctrl (v : Word) : (s.setCsctrl v).csctrl = v := rfl
@[simp] theorem setCsctrl_txbuf (v : Word) : (s.setCsctrl v).txbuf = s.txbuf := rfl
@[simp] theorem setCsctrl_rxbuf (v : Word) : (s.setCsctrl v).rxbuf = s.rxbuf := rfl
@[simp] theorem setCsctrl_irq (v : Word) : (s.setCsctrl v).irq = s.irq := rfl
@[simp] theorem setCsctrl_cs (v : Word) : (s.setCsctrl v).cs = s.cs := rfl
@[simp] theorem setCsctrl_rdata (v : Word) : (s.setCsctrl v).rdata = s.rdata := rfl
@[simp] theorem setCsctrl_phase (v : Word) : (s.setCsctrl v).phase = s.phase := rfl
@[simp] theorem setCsctrl_numCs (v : Word) : (s.setCsctrl v).numCs = s.numCs := rfl
@[simp] theorem setCsctrl_requests (v : Word) : (s.setCsctrl v).requests = s.requests := rfl
@[simp] theorem setCsctrl_trace (v : Word) : (s.setCsctrl v).trace = s.trace := rfl

@[simp] theorem setTxbuf_cr1 (b : Option Byte) : (s.setTxbuf b).cr1 = s.cr1 := rfl
@[simp] theorem setTxbuf_cr2 (b : Option Byte) : (s.setTxbuf b).cr2 = s.cr2 := rfl
@[simp] theorem setTxbuf_sr (b : Option Byte) : (s.setTxbuf b).sr = s.sr := rfl
@[simp] theorem setTxbuf_dr (b : Option Byte) : (s.setTxbuf b).dr = s.dr := rfl
@[simp] theorem setTxbuf_csctrl (b : Option Byte) : (s.setTxbuf b).csctrl = s.csctrl := rfl
@[simp] theorem setTxbuf_txbuf (b : Option Byte) : (s.setTxbuf b).txbuf = b := rfl
@[simp] theorem setTxbuf_rxbuf (b : Option Byte) : (s.setTxbuf b).rxbuf = s.rxbuf := rfl
@[simp] theorem setTxbuf_irq (b : Option Byte) : (s.setTxbuf b).irq = s.irq := rfl
@[simp] theorem setTxbuf_cs (b : Option Byte) : (s.setTxbuf b).cs = s.cs := rfl
@[simp] theorem setTxbuf_rdata (b : Option Byte) : (s.setTxbuf b).rdata = s.rdata := rfl
@[simp] theorem setTxbuf_phase (b : Option Byte) : (s.setTxbuf b).phase = s.phase := rfl
@[simp] theorem setTxbuf_numCs (b : Option Byte) : (s.setTxbuf b).numCs = s.numCs := rfl
@[simp] theorem setTxbuf_requests (b : Option Byte) : (s.setTxbuf b).requests = s.requests := rfl
@[simp] theorem setTxbuf_trace (b : Option Byte) : (s.setTxbuf b).trace = s.trace := rfl

@[simp] theorem setRxbuf_cr1 (b : Option Byte) : (s.setRxbuf b).cr1 = s.cr1 := rfl
@[simp] theorem setRxbuf_cr2 (b : Option Byte) : (s.setRxbuf b).cr2 = s.cr2 := rfl
@[simp] theorem setRxbuf_sr (b : Option Byte) : (s.setRxbuf b).sr = s.sr := rfl
@[simp] theorem setRxbuf_dr (b : Option Byte) : (s.setRxbuf b).dr = s.dr := rfl
@[simp] theorem setRxbuf_csctrl (b : Option Byte) : (s.setRxbuf b).csctrl = s.csctrl := rfl
@[simp] theorem setRxbuf_txbuf (b : Option Byte) : (s.setRxbuf b).txbuf = s.txbuf := rfl
@[simp] theorem setRxbuf_rxbuf (b : Option Byte) : (s.setRxbuf b).rxbuf = b := rfl
@[simp] theorem setRxbuf_irq (b : Option Byte) : (s.setRxbuf b).irq = s.irq := rfl
@[simp] theorem setRxbuf_cs (b : Option Byte) : (s.setRxbuf b).cs = s.cs := rfl
@[simp] theorem setRxbuf_rdata (b : Option Byte) : (s.setRxbuf b).rdata = s.rdata := rfl
@[simp] theorem setRxbuf_phase (b : Option Byte) : (s.setRxbuf b).phase = s.phase := rfl
@[simp] theorem setRxbuf_numCs (b : Option Byte) : (s.setRxbuf b).numCs = s.numCs := rfl
@[simp] theorem setRxbuf_requests (b : Option Byte) : (s.setRxbuf b).requests = s.requests := rfl
@[simp] theorem setRxbuf_trace (b : Option Byte) : (s.setRxbuf b).trace = s.trace := rfl

@[simp] theorem setIrq_cr1 (l : Bool) : (s.setIrq l).cr1 = s.cr1 := rfl
@[simp] theorem setIrq_cr2 (l : Bool) : (s.setIrq l).cr2 = s.cr2 := rfl
@[simp] theorem setIrq_sr (l : Bool) : (s.setIrq l).sr = s.sr := rfl
@[simp] theorem setIrq_dr (l : Bool) : (s.setIrq l).dr = s.dr := rfl
@[simp] theorem setIrq_csctrl (l : Bool) : (s.setIrq l).csctrl = s.csctrl := rfl
@[simp] theorem setIrq_txbuf (l : Bool) : (s.setIrq l).txbuf = s.txbuf := rfl
@[simp] theorem setIrq_rxbuf (l : Bool) : (s.setIrq l).rxbuf = s.rxbuf := rfl
@[simp] theorem setIrq_irq (l : Bool) : (s.setIrq l).irq = l := rfl
@[simp] theorem setIrq_cs (l : Bool) : (s.setIrq l).cs = s.cs := rfl
@[simp] theorem setIrq_rdata (l : Bool) : (s.setIrq l).rdata = s.rdata := rfl
@[simp] theorem setIrq_phase (l : Bool) : (s.setIrq l).phase = s.phase := rfl
@[simp] theorem setIrq_numCs (l : Bool) : (s.setIrq l).numCs = s.numCs := rfl
@[simp] theorem setIrq_requests (l : Bool) : (s.setIrq l).requests = s.requests := rfl
@[simp] theorem setIrq_trace (l : Bool) : (s.setIrq l).trace = s.trace := rfl

@[simp] theorem setCs_cr1 (l : List Bool) : (s.setCs l).cr1 = s.cr1 := rfl
@[simp] theorem setCs_cr2 (l : List Bool) : (s.setCs l).cr2 = s.cr2 := rfl
@[simp] theorem setCs_sr (l : List Bool) : (s.setCs l).sr = s.sr := rfl
@[simp] theorem setCs_dr (l : List Bool) : (s.setCs l).dr = s.dr := rfl
@[simp] theorem setCs_csctrl (l : List Bool) : (s.setCs l).csctrl = s.csctrl := rfl
@[simp] theorem setCs_txbuf (l : List Bool) : (s.setCs l).txbuf = s.txbuf := rfl
@[simp] theorem setCs_rxbuf (l : List Bool) : (s.setCs l).rxbuf = s.rxbuf := rfl
@[simp] theorem setCs_irq (l : List Bool) : (s.setCs l).irq = s.irq := rfl
@[simp] theorem setCs_cs (l : List Bool) : (s.setCs l).cs = l := rfl
@[simp] theorem setCs_rdata (l : List Bool) : (s.setCs l).rdata = s.rdata := rfl
@[simp] theorem setCs_phase (l : List Bool) : (s.setCs l).phase = s.phase := rfl
@[simp] theorem setCs_numCs (l : List Bool) : (s.setCs l).numCs = s.numCs := rfl
@[simp] theorem setCs_requests (l : List Bool) : (s.setCs l).requests = s.requests := rfl
@[simp] theorem setCs_trace (l : List Bool) : (s.setCs l).trace = s.trace := rfl

@[simp] theorem setRdata_cr1 (r : Option Word) : (s.setRdata r).cr1 = s.cr1 := rfl
@[simp] theorem setRdata_cr2 (r : Option Word) : (s.setRdata r).cr2 = s.cr2 := rfl
@[simp] theorem setRdata_sr (r : Option Word) : (s.setRdata r).sr = s.sr := rfl
@[simp] theorem setRdata_dr (r : Option Word) : (s.setRdata r).dr = s.dr := rfl
@[simp] theorem setRdata_csctrl (r : Option Word) : (s.setRdata r).csctrl = s.csctrl := rfl
@[simp] theorem setRdata_txbuf (r : Option Word) : (s.setRdata r).txbuf = s.txbuf := rfl
@[simp] theorem setRdata_rxbuf (r : Option Word) : (s.setRdata r).rxbuf = s.rxbuf := rfl
@[simp] theorem setRdata_irq (r : Option Word) : (s.setRdata r).irq = s.irq := rfl
@[simp] theorem setRdata_cs (r : Option Word) : (s.setRdata r).cs = s.cs := rfl
@[simp] theorem setRdata_rdata (r : Option Word) : (s.setRdata r).rdata = r := rfl
@[simp] theorem setRdata_phase (r : Option Word) : (s.setRdata r).phase = s.phase := rfl
@[simp] theorem setRdata_numCs (r : Option Word) : (s.setRdata r).numCs = s.numCs := rfl
@[simp] theorem setRdata_requests (r : Option Word) : (s.setRdata r).requests = s.requests := rfl
@[simp] theorem setRdata_trace (r : Option Word) : (s.setRdata r).trace = s.trace := rfl

@[simp] theorem setPhase_cr1 (p : Phase) : (s.setPhase p).cr1 = s.cr1 := rfl
@[simp] theorem setPhase_cr2 (p : Phase) : (s.setPhase p).cr2 = s.cr2 := rfl
@[simp] theorem setPhase_sr (p : Phase) : (s.setPhase p).sr = s.sr := rfl
@[simp] theorem setPhase_dr (p : Phase) : (s.setPhase p).dr = s.dr := rfl
@[simp] theorem setPhase_csctrl (p : Phase) : (s.setPhase p).csctrl = s.csctrl := rfl
@[simp] theorem setPhase_txbuf (p : Phase) : (s.setPhase p).txbuf = s.txbuf := rfl
@[simp] theorem setPhase_rxbuf (p : Phase) : (s.setPhase p).rxbuf = s.rxbuf := rfl
@[simp] theorem setPhase_irq (p : Phase) : (s.setPhase p).irq = s.irq := rfl
@[simp] theorem setPhase_cs (p : Phase) : (s.setPhase p).cs = s.cs := rfl
@[simp] theorem setPhase_rdata (p : Phase) : (s.setPhase p).rdata = s.rdata := rfl
@[simp] theorem setPhase_phase (p : Phase) : (s.setPhase p).phase = p := rfl
@[simp] theorem setPhase_numCs (p : Phase) : (s.setPhase p).numCs = s.numCs := rfl
@[simp] theorem setPhase_requests (p : Phase) : (s.setPhase p).requests = s.requests := rfl
@[simp] theorem setPhase_trace (p : Phase) : (s.setPhase p).trace = s.trace := rfl

@[simp] theorem setRequests_cr1 (rs : List Request) : (s.setRequests rs).cr1 = s.cr1 := rfl
@[simp] theorem setRequests_cr2 (rs : List Request) : (s.setRequests rs).cr2 = s.cr2 := rfl
@[simp] theorem setRequests_sr (rs : List Request) : (s.setRequests rs).sr = s.sr := rfl
@[simp] theorem setRequests_dr (rs : List Request) : (s.setRequests rs).dr = s.dr := rfl
@[simp] theorem setRequests_csctrl (rs : List Request) : (s.setRequests rs).csctrl = s.csctrl := rfl
@[simp] theorem setRequests_txbuf (rs : List Request) : (s.setRequests rs).txbuf = s.txbuf := rfl
@[simp] theorem setRequests_rxbuf (rs : List Request) : (s.setRequests rs).rxbuf = s.rxbuf := rfl
@[simp] theorem setRequests_irq (rs : List Request) : (s.setRequests rs).irq = s.irq := rfl
@[simp] theorem setRequests_cs (rs : List Request) : (s.setRequests rs).cs = s.cs := rfl
@[simp] theorem setRequests_rdata (rs : List Request) : (s.setRequests rs).rdata = s.rdata := rfl
@[simp] theorem setRequests_phase (rs : List Request) : (s.setRequests rs).phase = s.phase := rfl
@[simp] theorem setRequests_numCs (rs : List Request) : (s.setRequests rs).numCs = s.numCs := rfl
@[simp] theorem setRequests_requests (rs : List Request) : (s.setRequests rs).requests = rs := rfl
@[simp] theorem setRequests_trace (rs : List Request) : (s.setRequests rs).trace = s.trace := rfl

@[simp] theorem record_cr1 (e : Event) : (s.record e).cr1 = s.cr1 := rfl
@[simp] theorem record_cr2 (e : Event) : (s.record e).cr2 = s.cr2 := rfl
@[simp] theorem record_sr (e : Event) : (s.record e).sr = s.sr := rfl
@[simp] theorem record_dr (e : Event) : (s.record e).dr = s.dr := rfl
@[simp] theorem record_csctrl (e : Event) : (s.record e).csctrl = s.csctrl := rfl
@[simp] theorem record_txbuf (e : Event) : (s.record e).txbuf = s.txbuf := rfl
@[simp] theorem record_rxbuf (e : Event) : (s.record e).rxbuf = s.rxbuf := rfl
@[simp] theorem record_irq (e : Event) : (s.record e).irq = s.irq := rfl
@[simp] theorem record_cs (e : Event) : (s.record e).cs = s.cs := rfl
@[simp] theorem record_rdata (e : Event) : (s.record e).rdata = s.rdata := rfl
@[simp] theorem record_phase (e : Event) : (s.record e).phase = s.phase := rfl
@[simp] theorem record_numCs (e : Event) : (s.record e).numCs = s.numCs := rfl
@[simp] theorem record_requests (e : Event) : (s.record e).requests = s.requests := rfl
@[simp] theorem record_trace (e : Event) : (s.record e).trace = e :: s.trace := rfl

@[simp] theorem txEmpty_eq : s.txEmpty = s.txbuf.isNone := rfl
@[simp] theorem rxEmpty_eq : s.rxEmpty = s.rxbuf.isNone := rfl

end Sys2Proof.Machine
end

