-- ==== Sys2Proof/Laws/Ops.lean ====
section
/-! SUPPORT. What each shared operation does, said once: bit lemmas for the word operations, and for every state
operation what it leaves in each cell. Provers cite these instead of unfolding. -/

namespace Sys2Proof.Machine

/-! ### Words, bit by bit -/

theorem getLsbD_masked (v mask : Word) (i : Nat) :
    (masked v mask).getLsbD i = (v.getLsbD i && mask.getLsbD i) := by
  simp [masked]

theorem getLsbD_setBits (w mask : Word) (i : Nat) :
    (setBits w mask).getLsbD i = (w.getLsbD i || mask.getLsbD i) := by
  simp [setBits]

theorem getLsbD_clearBits (w mask : Word) (i : Nat) :
    (clearBits w mask).getLsbD i = (w.getLsbD i && !mask.getLsbD i) := by
  by_cases h : i < 32
  · simp [clearBits, h]
  · simp [clearBits, BitVec.getLsbD_of_ge w i (by omega)]

/-- Setting bits that are then cleared leaves no trace of the setting (R94). -/
theorem clearBits_setBits (w mask : Word) : clearBits (setBits w mask) mask = clearBits w mask := by
  apply BitVec.eq_of_getLsbD_eq
  intro i _
  rw [getLsbD_clearBits, getLsbD_clearBits, getLsbD_setBits]
  cases w.getLsbD i <;> cases mask.getLsbD i <;> rfl

/-- The same with another setting in between. -/
theorem clearBits_setBits_setBits (w mask other : Word) :
    clearBits (setBits (setBits w mask) other) mask = clearBits (setBits w other) mask := by
  apply BitVec.eq_of_getLsbD_eq
  intro i _
  rw [getLsbD_clearBits, getLsbD_clearBits, getLsbD_setBits, getLsbD_setBits, getLsbD_setBits]
  cases w.getLsbD i <;> cases mask.getLsbD i <;> cases other.getLsbD i <;> rfl

theorem getLsbD_putBit (w : Word) (i j : Nat) (b : Bool) (h : i < 32) :
    (putBit w i b).getLsbD j = if j = i then b else w.getLsbD j := by
  have hbit : (1#32 <<< i).getLsbD j = decide (j = i) := by
    rw [BitVec.getLsbD_shiftLeft]
    by_cases hj : j = i
    · subst hj; simp [h]
    · by_cases hlt : j < i
      · simp [hlt, hj]
      · have : j - i ≠ 0 := by omega
        simp [hj, this]
  unfold putBit
  cases b
  · rw [if_neg Bool.false_ne_true, getLsbD_clearBits, hbit]
    by_cases hj : j = i <;> simp [hj]
  · rw [if_pos rfl, getLsbD_setBits, hbit]
    by_cases hj : j = i <;> simp [hj]

/-- TXE and RXNE come from the buffers, every other bit of SR is kept (R140). -/
theorem getLsbD_mirrorBuffers (sr : Word) (txe rxne : Bool) (i : Nat) :
    (mirrorBuffers sr txe rxne).getLsbD i =
      if i = 0 then rxne else if i = 1 then txe else sr.getLsbD i := by
  rw [mirrorBuffers, getLsbD_putBit _ _ _ _ (by decide), getLsbD_putBit _ _ _ _ (by decide)]

theorem errPending_mirrorBuffers (sr : Word) (txe rxne : Bool) :
    errPending (mirrorBuffers sr txe rxne) = errPending sr := by
  simp [errPending, getLsbD_mirrorBuffers]

/-- Rewriting TXE and RXNE with the values they hold changes nothing. -/
theorem mirrorBuffers_self (sr : Word) (txe rxne : Bool) (ht : sr.getLsbD 1 = txe) (hr : sr.getLsbD 0 = rxne) :
    mirrorBuffers sr txe rxne = sr := by
  apply BitVec.eq_of_getLsbD_eq
  intro i _
  rw [getLsbD_mirrorBuffers]
  split
  · next h => rw [h, hr]
  · split
    · next h => rw [h, ht]
    · rfl

/-! ### `UpdateIrq` and `UpdateCs`, cell by cell -/

section
variable (s : State)

@[simp] theorem updateIrq_cr1 : (updateIrq s).cr1 = s.cr1 := rfl
@[simp] theorem updateIrq_cr2 : (updateIrq s).cr2 = s.cr2 := rfl
@[simp] theorem updateIrq_dr : (updateIrq s).dr = s.dr := rfl
@[simp] theorem updateIrq_csctrl : (updateIrq s).csctrl = s.csctrl := rfl
@[simp] theorem updateIrq_txbuf : (updateIrq s).txbuf = s.txbuf := rfl
@[simp] theorem updateIrq_rxbuf : (updateIrq s).rxbuf = s.rxbuf := rfl
@[simp] theorem updateIrq_cs : (updateIrq s).cs = s.cs := rfl
@[simp] theorem updateIrq_rdata : (updateIrq s).rdata = s.rdata := rfl
@[simp] theorem updateIrq_phase : (updateIrq s).phase = s.phase := rfl
@[simp] theorem updateIrq_numCs : (updateIrq s).numCs = s.numCs := rfl
@[simp] theorem updateIrq_requests : (updateIrq s).requests = s.requests := rfl
theorem updateIrq_trace : (updateIrq s).trace = .irqSet (updateIrq s).irq :: s.trace := rfl

/-- SR after `UpdateIrq`, bit by bit (R140). -/
theorem getLsbD_updateIrq_sr (i : Nat) :
    (updateIrq s).sr.getLsbD i =
      if i = 0 then s.rxbuf.isSome else if i = 1 then s.txbuf.isNone else s.sr.getLsbD i := by
  show (mirrorBuffers s.sr s.txEmpty (!s.rxEmpty)).getLsbD i = _
  rw [getLsbD_mirrorBuffers]
  cases h : s.rxbuf <;> simp [h]

/-- `irq` after `UpdateIrq`, from the buffers, the error flags and the enables (R140). -/
theorem updateIrq_irq :
    (updateIrq s).irq =
      ((s.txbuf.isNone && s.cr2.getLsbD 7) || (s.rxbuf.isSome && s.cr2.getLsbD 6) ||
        ((s.sr.getLsbD 3 || s.sr.getLsbD 2) && s.cr2.getLsbD 5)) := by
  show irqFunction s.txEmpty (!s.rxEmpty) (errPending s.sr) s.cr2 = _
  cases h : s.rxbuf <;> rw [State.txEmpty, State.rxEmpty, h] <;> rfl

@[simp] theorem updateCs_cr1 : (updateCs s).cr1 = s.cr1 := rfl
@[simp] theorem updateCs_cr2 : (updateCs s).cr2 = s.cr2 := rfl
@[simp] theorem updateCs_sr : (updateCs s).sr = s.sr := rfl
@[simp] theorem updateCs_dr : (updateCs s).dr = s.dr := rfl
@[simp] theorem updateCs_csctrl : (updateCs s).csctrl = s.csctrl := rfl
@[simp] theorem updateCs_txbuf : (updateCs s).txbuf = s.txbuf := rfl
@[simp] theorem updateCs_rxbuf : (updateCs s).rxbuf = s.rxbuf := rfl
@[simp] theorem updateCs_irq : (updateCs s).irq = s.irq := rfl
@[simp] theorem updateCs_rdata : (updateCs s).rdata = s.rdata := rfl
@[simp] theorem updateCs_phase : (updateCs s).phase = s.phase := rfl
@[simp] theorem updateCs_numCs : (updateCs s).numCs = s.numCs := rfl
@[simp] theorem updateCs_requests : (updateCs s).requests = s.requests := rfl
theorem updateCs_cs : (updateCs s).cs = lineLevels s.csctrl s.numCs := rfl
theorem updateCs_trace : (updateCs s).trace = .csSet (lineLevels s.csctrl s.numCs) :: s.trace := rfl

end

/-- The level of a line is `!(en & act)` (R160). -/
theorem lineLevel_eq (w : Word) (i : Nat) : lineLevel w i = !(w.getLsbD i && w.getLsbD (4 + i)) := by
  unfold lineLevel
  cases w.getLsbD i <;> simp

@[simp] theorem length_lineLevels (w : Word) (n : Nat) : (lineLevels w n).length = n := by
  simp [lineLevels]

theorem getElem?_lineLevels (w : Word) (n i : Nat) (h : i < n) :
    (lineLevels w n)[i]? = some (!(w.getLsbD i && w.getLsbD (4 + i))) := by
  simp [lineLevels, h, lineLevel_eq]

/-! ### The end of an operation -/

/-- Every bus access completes in the state `UpdateIrq` leaves (R53, R143). -/
theorem finish_eq (r : Option Word) (s : State) : finish r s = .next (updateIrq (s.setRdata r)) := rfl

/-! ### The buffers -/

theorem rxPop_eq_some (s : State) (b : Byte) (h : s.rxbuf = some b) : rxPop s = some (b, s.setRxbuf none) := by
  simp [rxPop, h]

theorem rxPop_eq_none (s : State) (h : s.rxbuf = none) : rxPop s = none := by
  simp [rxPop, h]

theorem txPush_eq_some (b : Byte) (s : State) (h : s.txbuf = none) : txPush b s = some (s.setTxbuf (some b)) := by
  simp [txPush, h]

theorem txPush_eq_none (b q : Byte) (s : State) (h : s.txbuf = some q) : txPush b s = none := by
  simp [txPush, h]

/-- An answer is kept when the receive buffer has room, and lost with OVERRUN when it has not (R120, R123). -/
theorem deliver_cases (r : Byte) (s : State) :
    (s.rxbuf = none ∧ deliver r s = s.setRxbuf (some r)) ∨
      (∃ q, s.rxbuf = some q ∧ deliver r s = s.setSr (setBits s.sr srOverrun)) := by
  cases h : s.rxbuf with
  | none => exact .inl ⟨rfl, by simp [deliver, rxPush, h]⟩
  | some q => exact .inr ⟨q, rfl, by simp [deliver, rxPush, raise, h]⟩

/-! ### The drain -/

/-- The loop with nothing to send is the identity, whatever its bound (R124). -/
theorem drainLoop_empty (n : Nat) (s : State) (h : s.txbuf = none) : drainLoop n s = s := by
  cases n <;> simp [drainLoop, txPop, h]

/-- One pass of the loop (R120). -/
theorem drainLoop_one (s : State) (t : Byte) (h : s.txbuf = some t) :
    drainLoop 1 s = deliver (exchange t (s.setTxbuf none)).1 (exchange t (s.setTxbuf none)).2 := by
  simp [drainLoop, txPop, h]

/-- The peer answers from its history, the levels and the byte alone (R122). -/
theorem peerAnswer_congr (s s' : State) (t : Byte) (htrace : s'.trace = s.trace) (hcs : s'.cs = s.cs) :
    peerAnswer s' t = peerAnswer s t := by
  simp [peerAnswer, htrace, hcs]

/-- A drain with nothing to send leaves the buffers and clears BSY (R120). -/
theorem drain_empty (s : State) (h : s.txbuf = none) : drain s = s.setSr (clearBits s.sr srBsy) := by
  rw [drain, drainLoop_empty _ _ (by simpa using h), setSr_sr, clearBits_setBits]
  rfl

/-- A drain with a byte to send and room for the answer (R120). -/
theorem drain_room (s : State) (t : Byte) (ht : s.txbuf = some t) (hr : s.rxbuf = none) :
    drain s = { s with
      txbuf := none, rxbuf := some (peerAnswer s t), sr := clearBits s.sr srBsy,
      trace := .xfer t (peerAnswer s t) :: s.trace } := by
  rw [drain, drainLoop_one _ t (by simpa using ht)]
  simp [deliver, rxPush, exchange, hr]
  rw [clearBits_setBits]
  rfl

/-- A drain with a byte to send and no room for the answer: OVERRUN, the old byte kept (R123). -/
theorem drain_full (s : State) (t q : Byte) (ht : s.txbuf = some t) (hr : s.rxbuf = some q) :
    drain s = { s with
      txbuf := none, sr := clearBits (setBits s.sr srOverrun) srBsy,
      trace := .xfer t (peerAnswer s t) :: s.trace } := by
  rw [drain, drainLoop_one _ t (by simpa using ht)]
  simp [deliver, rxPush, exchange, raise, hr]
  rw [← hr, clearBits_setBits_setBits]
  rfl

/-! ### The two operations on DR -/

theorem readDr_some (s : State) (b : Byte) (h : s.rxbuf = some b) : readDr s = (zextByte b, s.setRxbuf none) := by
  simp [readDr, rxPop_eq_some s b h]

theorem readDr_none (s : State) (h : s.rxbuf = none) : readDr s = (0#32, raise .underrun s) := by
  simp [readDr, rxPop_eq_none s h]

theorem writeDr_room (v : Word) (s : State) (h : s.txbuf = none) :
    writeDr v s = drain (s.setTxbuf (some (dataByte v))) := by
  simp [writeDr, txPush_eq_some _ s h]

/-- `WriteDR` with both buffers empty: the byte is sent and the answer kept (R104). -/
theorem writeDr_keeps (v : Word) (s : State) (ht : s.txbuf = none) (hr : s.rxbuf = none) :
    writeDr v s = { s with
      txbuf := none, rxbuf := some (peerAnswer s (dataByte v)), sr := clearBits s.sr srBsy,
      trace := .xfer (dataByte v) (peerAnswer s (dataByte v)) :: s.trace } := by
  rw [writeDr_room v s ht, drain_room (s.setTxbuf (some (dataByte v))) (dataByte v) rfl hr]
  rfl

/-- `WriteDR` with a byte unread: the byte is sent, the answer lost with OVERRUN (R104, R123). -/
theorem writeDr_loses (v : Word) (q : Byte) (s : State) (ht : s.txbuf = none) (hr : s.rxbuf = some q) :
    writeDr v s = { s with
      txbuf := none, sr := clearBits (setBits s.sr srOverrun) srBsy,
      trace := .xfer (dataByte v) (peerAnswer s (dataByte v)) :: s.trace } := by
  rw [writeDr_room v s ht, drain_full (s.setTxbuf (some (dataByte v))) (dataByte v) q rfl hr]
  rfl

/-- `WriteDR` with the transmit buffer full: OVERRUN, the byte dropped, no exchange (R105). -/
theorem writeDr_full (v : Word) (q : Byte) (s : State) (h : s.txbuf = some q) :
    writeDr v s = raise .overrun s := by
  simp [writeDr, txPush_eq_none _ q s h]

/-! ### What the peer sees -/

@[simp] theorem peerView_irqSet (level : Bool) (older : List Event) :
    peerView (.irqSet level :: older) = peerView older := rfl

@[simp] theorem peerView_diag (e : Diag) (older : List Event) : peerView (.diag e :: older) = peerView older := rfl

@[simp] theorem peerView_xfer (t r : Byte) (older : List Event) :
    peerView (.xfer t r :: older) = .xfer t r :: peerView older := rfl

/-- Levels the peer was last shown are not shown again (D25). -/
theorem peerView_csSet_same (levels : List Bool) (older : List Event)
    (h : shownLevels (peerView older) = some levels) : peerView (.csSet levels :: older) = peerView older := by
  simp [peerView, h]

/-- After any run of `UpdateCs` the levels last shown are those driven. -/
@[simp] theorem shownLevels_csSet (levels : List Bool) (older : List Event) :
    shownLevels (peerView (.csSet levels :: older)) = some levels := by
  simp only [peerView]
  split
  · next h => exact h
  · rfl

/-- `UpdateIrq` is invisible to the peer (R122). -/
@[simp] theorem peerView_updateIrq (s : State) : peerView (updateIrq s).trace = peerView s.trace := rfl

/-! ### Taking an input and stepping -/

theorem step_idle (s : State) (h : s.requests = []) : step s = .next s := by
  simp [step, fetch, h]

theorem step_run (s : State) (r : Request) (rest : List Request) (i : Instr) (h : s.requests = r :: rest)
    (hd : decode r = .op i) (ha : accepts s.phase i = true) : step s = exec i (s.setRequests rest) := by
  simp [step, fetch, h, hd, ha]

theorem step_rejected (s : State) (r : Request) (rest : List Request) (why : Reject) (h : s.requests = r :: rest)
    (hd : decode r = .rejected why) : step s = .refused (.rejected why) := by
  simp [step, fetch, h, hd]

theorem step_elsewhere (s : State) (r : Request) (rest : List Request) (h : s.requests = r :: rest)
    (hd : decode r = .elsewhere) : step s = .next (s.setRequests rest) := by
  simp [step, fetch, h, hd]

theorem step_beforeReset (s : State) (r : Request) (rest : List Request) (i : Instr) (h : s.requests = r :: rest)
    (hd : decode r = .op i) (ha : accepts s.phase i = false) : step s = .refused .beforeReset := by
  simp [step, fetch, h, hd, ha]

/-- Everything a step that goes on can have done: nothing, one access to elsewhere let past, or one accepted operation
(R5, R41, R47). -/
theorem step_cases (s t : State) (h : step s = .next t) :
    (s.requests = [] ∧ t = s) ∨
      (∃ r rest, s.requests = r :: rest ∧ decode r = .elsewhere ∧ t = s.setRequests rest) ∨
      (∃ r rest i, s.requests = r :: rest ∧ decode r = .op i ∧ accepts s.phase i = true ∧
        exec i (s.setRequests rest) = .next t) := by
  cases hr : s.requests with
  | nil =>
    rw [step_idle s hr] at h
    cases h
    exact .inl ⟨rfl, rfl⟩
  | cons r rest =>
    cases hd : decode r with
    | rejected why =>
      rw [step_rejected s r rest why hr hd] at h
      cases h
    | elsewhere =>
      rw [step_elsewhere s r rest hr hd] at h
      cases h
      exact .inr (.inl ⟨r, rest, rfl, hd, rfl⟩)
    | op i =>
      cases ha : accepts s.phase i with
      | false =>
        rw [step_beforeReset s r rest i hr hd ha] at h
        cases h
      | true =>
        rw [step_run s r rest i hr hd ha] at h
        exact .inr (.inr ⟨r, rest, i, rfl, hd, ha, h⟩)

/-- Everything a step that is refused can have met: an access to the window that no rule defines, or an operation other
than the reset before the first reset (R7). -/
theorem step_refused_cases (s : State) (why : Refusal) (h : step s = .refused why) :
    ∃ r rest, s.requests = r :: rest ∧
      ((∃ w, decode r = .rejected w ∧ why = .rejected w) ∨
        ∃ i, decode r = .op i ∧ accepts s.phase i = false ∧ why = .beforeReset) := by
  cases hr : s.requests with
  | nil => simp [step_idle s hr] at h
  | cons r rest =>
    refine ⟨r, rest, rfl, ?_⟩
    cases hd : decode r with
    | rejected w =>
      rw [step_rejected s r rest w hr hd] at h
      exact .inl ⟨w, rfl, by simpa using h.symm⟩
    | elsewhere => simp [step_elsewhere s r rest hr hd] at h
    | op i =>
      cases ha : accepts s.phase i with
      | true =>
        rw [step_run s r rest i hr hd ha] at h
        cases i <;> cases h
      | false =>
        rw [step_beforeReset s r rest i hr hd ha] at h
        exact .inr ⟨i, rfl, ha, by simpa using h.symm⟩

/-- The placed word is what the very next step performs. -/
theorem step_withFetchWord (s : State) (nbits w : Nat) (i : Instr) (h : decodeTableWord nbits w = some i) :
    step (s.withFetchWord nbits w) = exec i (s.setPhase .running) := by
  unfold decodeTableWord at h
  cases hr : tableRequest nbits w with
  | none => simp [hr] at h
  | some r =>
    rw [hr] at h
    cases hd : decode r with
    | rejected why => simp [hd, Decoded.op?] at h
    | elsewhere => simp [hd, Decoded.op?] at h
    | op j =>
      have hij : j = i := by simpa [hd, Decoded.op?] using h
      subst hij
      have hs : s.withFetchWord nbits w = placeRequest s r := by simp [State.withFetchWord, hr]
      rw [hs, step_run _ r s.requests j (by simp [placeRequest]) hd (by simp [placeRequest, accepts])]
      rfl

end Sys2Proof.Machine
end

