-- ==== Sys2Proof/Laws/PerInstr.lean ====
section
/-! SUPPORT. Statements about every operation as syntax, one lemma per constructor. -/

namespace Sys2Proof.Laws.RoundTrip

/-- Decoding the input that performs a well-formed operation gives the operation back, every operand at every value
(R62, R63). -/
def Statement (i : Instr) : Prop := i.wf = true → decode (encode i) = .op i

theorem rdCr1 : Statement .rdCr1 := fun _ => rfl
theorem rdCr2 : Statement .rdCr2 := fun _ => rfl
theorem rdSr : Statement .rdSr := fun _ => rfl
theorem rdDr : Statement .rdDr := fun _ => rfl
theorem rdCsctrl : Statement .rdCsctrl := fun _ => rfl
theorem wrCr1 (v : Word) : Statement (.wrCr1 v) := fun _ => rfl
theorem wrCr2 (v : Word) : Statement (.wrCr2 v) := fun _ => rfl
theorem wrSr (v : Word) : Statement (.wrSr v) := fun _ => rfl
theorem wrDr (v : Word) : Statement (.wrDr v) := fun _ => rfl
theorem wrCsctrl (v : Word) : Statement (.wrCsctrl v) := fun _ => rfl

theorem rdInvalid (offset : Word) : Statement (.rdInvalid offset) := by
  intro h
  simp only [Instr.wf, Machine.isRegOffset, List.contains_cons, List.contains_nil, Bool.or_false, Bool.not_or,
    Bool.and_eq_true, Bool.not_eq_true', beq_eq_false_iff_ne, ne_eq] at h
  simp [decode, encode, decodeBus, h]

theorem wrInvalid (offset v : Word) : Statement (.wrInvalid offset v) := by
  intro h
  simp only [Instr.wf, Machine.isRegOffset, List.contains_cons, List.contains_nil, Bool.or_false, Bool.not_or,
    Bool.and_eq_true, Bool.not_eq_true', beq_eq_false_iff_ne, ne_eq] at h
  simp [decode, encode, decodeBus, h]

theorem reset : Statement .reset := fun _ => rfl

end Sys2Proof.Laws.RoundTrip
end

