-- ==== Sys2Proof/Laws/Safety.lean ====
section
/-! SUPPORT. The terms of the claims about the shared operations: what `UpdateIrq` settles, what `UpdateCs` makes
follow, and how runs compose. -/

namespace Sys2Proof.Machine

/-- Every state `UpdateIrq` leaves is settled (R140 to R143). -/
theorem settled_updateIrq (s : State) : Settled (updateIrq s) where
  txe := by simp only [getLsbD_updateIrq_sr, updateIrq_txbuf]; rfl
  rxne := by simp only [getLsbD_updateIrq_sr, updateIrq_rxbuf]; rfl
  level := by
    simp only [irqOf, getLsbD_updateIrq_sr, updateIrq_irq, updateIrq_cr2]
    rfl

/-- SR bits other than TXE and RXNE pass through `UpdateIrq` (R140). -/
theorem getLsbD_updateIrq_sr_of_ge (s : State) (i : Nat) (h : 2 ≤ i) :
    (updateIrq s).sr.getLsbD i = s.sr.getLsbD i := by
  rw [getLsbD_updateIrq_sr, if_neg (by omega), if_neg (by omega)]

/-- The levels `UpdateCs` drives follow CSCTRL (R160). -/
theorem linesFollow_updateCs (s : State) : LinesFollow (updateCs s) :=
  ⟨by simp [updateCs_cs], fun i h => getElem?_lineLevels s.csctrl s.numCs i h⟩

@[simp] theorem runOps_nil (s : State) : runOps [] s = .next s := rfl

theorem runOps_cons (i : Instr) (rest : List Instr) (s t : State) (h : exec i s = .next t) :
    runOps (i :: rest) s = runOps rest t := by
  simp [runOps, h]

/-- An induction over runs, packaged once: what every operation of the list keeps holds at its end. -/
theorem runOps_induction (P : State → Prop) (ops : List Instr)
    (hop : ∀ i ∈ ops, ∀ s t, P s → exec i s = .next t → P t) (s t : State) (hs : P s)
    (h : runOps ops s = .next t) : P t := by
  induction ops generalizing s with
  | nil => cases h; exact hs
  | cons i rest ih =>
    cases he : exec i s with
    | next u =>
      rw [runOps_cons i rest s u he] at h
      exact ih (fun j hj => hop j (List.mem_cons_of_mem i hj)) u (hop i List.mem_cons_self s u hs he) h
    | fault f => cases f
    | refused r => simp [runOps, he] at h

end Sys2Proof.Machine
end

