-- ==== Sys2Proof/Tests/Slice0.lean ====
section
/-! SUPPORT. The model's own tests: the well-formedness smoke test, words written out from R62 and R63, one-step
tests whose results come from spec/95_test_vectors.md, and a witness for the hypotheses of every statement. -/

namespace Sys2Proof.Tests

open Sys2Proof Sys2Proof.Machine

/-- One operation, and what `f` sees of the state after it. -/
def after {α : Type} (i : Instr) (s : State) (f : State → α) : Option α :=
  match exec i s with
  | .next t => some (f t)
  | .fault _ => none
  | .refused _ => none

/-- A state at an access boundary that differs from reset as the vectors' rows do. -/
def at_ (cr2 sr : Word) (rx : Option Byte) : State := { State.reset with cr2 := cr2, sr := sr, rxbuf := rx }

/-! ### Well-formedness: an ill-formed term for each check -/

theorem test_wf_refuses_rdInvalid_at_dr : (Instr.rdInvalid 0x0C#32).wf = false := by decide
theorem test_wf_refuses_wrInvalid_at_csctrl : (Instr.wrInvalid 0x10#32 0#32).wf = false := by decide
theorem test_wf_accepts_misaligned : (Instr.rdInvalid 0x0D#32).wf = true := by decide
theorem test_wf_refuses_sel_of_absent_line : (Pseudo.sel 2).wf 2 = false := by decide

/-! ### Decoding: the selectors of R63 and of the traces of 95_test_vectors.md -/

theorem test_decode_rdCr1 : decodeTableWord 40 0x000000000 = some .rdCr1 := by decide
theorem test_decode_rdCr2 : decodeTableWord 40 0x000000004 = some .rdCr2 := by decide
theorem test_decode_rdSr : decodeTableWord 40 0x000000008 = some .rdSr := by decide
theorem test_decode_rdDr : decodeTableWord 40 0x00000000C = some .rdDr := by decide
theorem test_decode_rdCsctrl : decodeTableWord 40 0x000000010 = some .rdCsctrl := by decide
theorem test_decode_wrCr1 : decodeTableWord 72 (0x100000000 + 0xFFFFFFFF * 2 ^ 33) = some (.wrCr1 0xFFFFFFFF#32) := by
  decide
theorem test_decode_wrCr2 : decodeTableWord 72 (0x100000004 + 0x00000040 * 2 ^ 33) = some (.wrCr2 0x40#32) := by
  decide
theorem test_decode_wrSr : decodeTableWord 72 (0x100000008 + 0x0000000C * 2 ^ 33) = some (.wrSr 0x0C#32) := by decide
theorem test_decode_wrDr : decodeTableWord 72 (0x10000000C + 0x000000B7 * 2 ^ 33) = some (.wrDr 0xB7#32) := by decide
theorem test_decode_wrCsctrl : decodeTableWord 40 0x100000010 = some (.wrCsctrl 0#32) := by decide
theorem test_decode_rdInvalid : decodeTableWord 40 0x000000FFC = some (.rdInvalid 0xFFC#32) := by decide
theorem test_decode_wrInvalid :
    decodeTableWord 72 (0x100000014 + 0xDEADBEEF * 2 ^ 33) = some (.wrInvalid 0x14#32 0xDEADBEEF#32) := by decide
theorem test_decode_reset : decodeTableWord 0 0 = some .reset := by decide
theorem test_decode_too_long : decodeTableWord 72 (2 ^ 65) = none := by decide

/-- The encoding of `WR CR2, 0x40` is `S = 0x100000004, wdata = 0x00000040` (R69). -/
theorem test_encode_wrCr2 :
    encode (.wrCr2 0x40#32) = .bus ⟨true, 0x04#32, 0x40#32⟩ ∧
      (BusTxn.mk true 0x04#32 0x40#32).selector = 0x100000004#33 := by decide

/-- The textual form of numerals (R69), digits as the spec's traces write them. -/
theorem test_text_digits : hexDigits 0xDEADBE40#32 = ['D', 'E', 'A', 'D', 'B', 'E', '4', '0'] := by decide

/-- A placed word is the first operation after reset. -/
theorem test_step_runs_the_placed_word :
    (match step (State.reset.withFetchWord 40 0x00000000C) with
      | .next t => some (t.rdata, t.sr)
      | .fault _ => none
      | .refused _ => none) = some (some 0#32, 0x06#32) := by decide

/-! ### The operations, on rows of 95_test_vectors.md and the rules' examples -/

/-- W2 row 8: the write replaces, it does not merge. -/
theorem test_wrCr1_replaces : after (.wrCr1 0x04#32) { State.reset with cr1 := 0x44#32 } (·.cr1) = some 0x04#32 := by
  decide
/-- V1: high garbage. -/
theorem test_wrCr1_masks : after (.wrCr1 0x12345678#32) State.reset (·.cr1) = some 0x40#32 := by decide
/-- V1 and W2 row 4. -/
theorem test_wrCr2_all_ones :
    after (.wrCr2 0xFFFFFFFF#32) State.reset (fun t => (t.cr2, t.irq)) = some (0xF0#32, true) := by decide
/-- P4 row 6: clearing TXEIE lowers the line. -/
theorem test_wrCr2_lowers :
    after (.wrCr2 0#32) (at_ 0x80#32 0x03#32 (some 0x7E#8)) (fun t => (t.cr2, t.sr, t.irq)) =
      some (0#32, 0x03#32, false) := by decide
/-- R86's example. -/
theorem test_wrSr_clears_one :
    after (.wrSr 0xFFFFFFF7#32) (at_ 0#32 0x0F#32 (some 0x55#8)) (·.sr) = some 0x0B#32 := by decide
/-- V2, row 0x06 with 0x0C: the error term falls. -/
theorem test_wrSr_lowers_irq :
    after (.wrSr 0x0C#32) { at_ 0x20#32 0x06#32 none with irq := true } (fun t => (t.sr, t.irq)) =
      some (0x02#32, false) := by decide
/-- R166: 0x35 gives 1110. -/
theorem test_wrCsctrl_levels :
    after (.wrCsctrl 0x35#32) State.reset (fun t => (t.csctrl, t.cs)) =
      some (0x35#32, [false, true, true, true]) := by decide
/-- P5, two lines, rows 4 and 6. -/
theorem test_wrCsctrl_two_lines :
    after (.wrCsctrl 0xCC#32) { State.reset with numCs := 2 } (fun t => (t.csctrl, t.cs)) =
      some (0xCC#32, [true, true]) := by decide
/-- R102's example. -/
theorem test_rdDr_pops :
    after .rdDr (at_ 0#32 0x03#32 (some 0xFA#8)) (fun t => (t.rdata, t.rxbuf, t.sr)) =
      some (some 0xFA#32, none, 0x02#32) := by decide
/-- W9 with ERRIE, row 5. -/
theorem test_rdDr_underrun_raises_irq :
    after .rdDr (at_ 0x60#32 0x02#32 none) (fun t => (t.rdata, t.sr, t.irq)) =
      some (some 0#32, 0x06#32, true) := by decide
/-- V5a row 3 and P3 row 4: the first answer is kept, OVERRUN is set and raises `irq`. -/
theorem test_wrDr_overrun :
    after (.wrDr 0xA2#32) (at_ 0x20#32 0x03#32 (some 0x5E#8)) (fun t => (t.rxbuf, t.sr, t.irq)) =
      some (some 0x5E#8, 0x0B#32, true) := by decide
/-- W4: the transmit buffer occupied. -/
theorem test_wrDr_full :
    after (.wrDr 0x22#32) { at_ 0#32 0x00#32 none with txbuf := some 0x11#8 } (fun t => (t.txbuf, t.sr, t.trace)) =
      some (some 0x11#8, 0x08#32, .irqSet false :: State.reset.trace) := by decide
/-- V5b row 2: only bits 7:0 are sent; whatever the peer answers is stored. -/
theorem test_wrDr_sends_the_low_byte :
    after (.wrDr 0xFFFFFF80#32) State.reset (fun t => (t.txbuf, t.rxbuf, t.sr)) =
      some (none, some (peerAnswer State.reset 0x80#8), 0x03#32) := rfl
/-- V6 row 7: no flag, one diagnostic. -/
theorem test_rdInvalid :
    after (.rdInvalid 0x0E#32) (at_ 0xE0#32 0x02#32 none) (fun t => (t.rdata, t.sr, t.irq, t.trace.take 2)) =
      some (some 0#32, 0x02#32, true, [.irqSet true, .diag (.invalidRead 0x0E#32)]) := by decide
/-- V6 row 6: a misaligned write next to DR sends nothing. -/
theorem test_wrInvalid :
    after (.wrInvalid 0x0D#32 0x55#32) (at_ 0xE0#32 0x02#32 none) (fun t => (t.rxbuf, t.sr, t.trace.take 2)) =
      some (none, 0x02#32, [.irqSet true, .diag (.invalidWrite 0x0D#32 0x55#32)]) := by decide
/-- W2 rows 3 to 7 and W1 row 4. -/
theorem test_rdCr1 : after .rdCr1 { State.reset with cr1 := 0x44#32 } (·.rdata) = some (some 0x44#32) := by decide
theorem test_rdCr2 : after .rdCr2 (at_ 0xF0#32 0x02#32 none) (·.rdata) = some (some 0xF0#32) := by decide
theorem test_rdSr : after .rdSr State.reset (fun t => (t.rdata, t.sr)) = some (some 0x02#32, 0x02#32) := by decide
theorem test_rdCsctrl : after .rdCsctrl { State.reset with csctrl := 0xFF#32 } (·.rdata) = some (some 0xFF#32) := by
  decide
/-- V7: from the constructed state both bytes are discarded and every output falls back. -/
theorem test_reset :
    after .reset { at_ 0xE0#32 0x8D#32 (some 0x22#8) with txbuf := some 0x11#8, csctrl := 0x33#32 }
        (fun t => (t.sr, t.txbuf, t.rxbuf, t.csctrl, t.cs)) =
      some (0x02#32, none, none, 0#32, [true, true, true, true]) := by decide

/-! ### Construction (R186) -/

theorem test_construct_refuses_zero_lines :
    construct 0 true State.reset = .error (.badChipSelectCount 0) := by decide
theorem test_construct_refuses_five_lines :
    construct 5 true State.reset = .error (.badChipSelectCount 5) := by decide
theorem test_construct_refuses_no_peer : construct 1 false State.reset = .error .missingPeer := by decide

/-! ### Witnesses: the hypotheses of each statement can be met -/

theorem boundary_reset : AccessBoundary State.reset where
  inv1 := rfl
  inv2 := by decide
  inv3 := by decide
  inv4 := by decide
  inv5 := by decide
  inv6cr1 := by decide
  inv6cr2 := by decide
  inv6cs := by decide
  inv7 := by decide
  inv8 := ⟨rfl, by decide⟩
  inv9 := rfl
  lines := by decide

/-- A boundary with a byte unread, OVERRUN set, three enables on, and `irq` high. -/
def busy : State := { at_ 0x60#32 0x0B#32 (some 0x5E#8) with irq := true }

theorem boundary_busy : AccessBoundary busy where
  inv1 := rfl
  inv2 := by decide
  inv3 := by decide
  inv4 := by decide
  inv5 := by decide
  inv6cr1 := by decide
  inv6cr2 := by decide
  inv6cs := by decide
  inv7 := by decide
  inv8 := ⟨rfl, by decide⟩
  inv9 := rfl
  lines := by decide

/-- A block that waits for its first reset. -/
def fresh : State := { State.reset with phase := .awaitingReset, requests := [.reset] }

theorem wit_DecodeUndoesEncode :
    (Instr.rdInvalid 0x11#32).wf = true ∧ (Instr.wrInvalid 0xFFFFFFFF#32 0#32).wf = true ∧ Instr.rdDr.wf = true := by
  decide
theorem wit_OffsetsDecodeExactly :
    (0x0B#32 ∉ [0x00#32, 0x04#32, 0x08#32, 0x0C#32, 0x10#32] ∧ (0x0B#32).toNat % 4 ≠ 0) ∧
      0x14#32 ∉ [0x00#32, 0x04#32, 0x08#32, 0x0C#32, 0x10#32] := by decide
theorem wit_PlatformAccessIsTheBusAccess :
    (Config.base ≤ Config.base + 0x10 ∧ Config.base + 0x10 < Config.base + Config.windowBytes) ∧
      Config.base + Config.windowBytes ≤ Config.base + Config.windowBytes := by
  unfold Config.windowBytes
  omega
theorem wit_StepPerformsTheNextInput :
    State.reset.requests = [] ∧
      (placeRequest State.reset (.bus ⟨false, 0x08#32, 0#32⟩)).requests = .bus ⟨false, 0x08#32, 0#32⟩ :: [] ∧
      decode (.bus ⟨false, 0x08#32, 0#32⟩) = .op .rdSr ∧ State.reset.phase = .running ∧
      fresh.requests = .reset :: [] ∧ decode .reset = .op .reset := ⟨rfl, rfl, rfl, rfl, rfl, rfl⟩
theorem wit_StepRejects : decode (.mem .fetch Config.base 4) = .rejected (.instructionFetch Config.base) := by
  simp [decode, memTxn, Config.windowBytes]
theorem wit_StepPasses : decode (.mem .read (Config.base + Config.windowBytes) 1) = .elsewhere := by
  simp [decode]
theorem wit_OutsideAccessesDoNotReachTheBlock :
    Config.base + Config.windowBytes ≤ Config.base + Config.windowBytes ∧
      (∃ why, step { fresh with requests := [.bus ⟨false, 0x08#32, 0#32⟩] } = .refused why) ∧
      ∃ why, step { State.reset with requests := [.mem .fetch Config.base 4] } = .refused why :=
  ⟨Nat.le_refl _, ⟨.beforeReset, rfl⟩, .rejected (.instructionFetch Config.base),
    step_rejected _ _ _ _ rfl wit_StepRejects⟩
theorem wit_NarrowAccessesAndFetchesAreRefused :
    Config.base ≤ Config.base + 0x0C ∧ Config.base + 0x0C < Config.base + Config.windowBytes ∧ 1 ≠ 4 := by
  unfold Config.windowBytes
  omega
theorem wit_AccessBeforeTheFirstResetIsRefused :
    (fresh.phase = .awaitingReset ∧ Config.legalNumCs fresh.numCs) ∧
      (decode (.bus ⟨false, 0x08#32, 0#32⟩) = .op .rdSr ∧ Instr.rdSr ≠ .reset) ∧
      Config.base ≤ Config.base + 0x10 ∧ Config.base + 0x10 < Config.base + Config.windowBytes := by
  refine ⟨by decide, ⟨rfl, by decide⟩, by omega, ?_⟩
  unfold Config.windowBytes
  omega
theorem wit_EveryInputTakesOneStep :
    (placeRequest (placeRequest State.reset .reset) (.bus ⟨true, 0x0C#32, 0xA5#32⟩)).phase = .running ∧
      ∀ r ∈ (placeRequest (placeRequest State.reset .reset) (.bus ⟨true, 0x0C#32, 0xA5#32⟩)).requests,
        ∀ why, decode r ≠ .rejected why := by
  refine ⟨rfl, fun r hr why => ?_⟩
  simp only [placeRequest, setRequests_requests, List.mem_cons] at hr
  rcases hr with rfl | rfl | hr
  · exact Decoded.noConfusion
  · exact Decoded.noConfusion
  · cases hr
theorem wit_ReadReturnsTheStoredRegister :
    (0x10#32, Instr.rdCsctrl, busy.csctrl) ∈ [(0x00#32, Instr.rdCr1, busy.cr1), (0x04#32, Instr.rdCr2, busy.cr2),
      (0x08#32, Instr.rdSr, busy.sr), (0x10#32, Instr.rdCsctrl, busy.csctrl)] ∧ AccessBoundary busy :=
  ⟨by simp, boundary_busy⟩
theorem wit_WriteCr1StoresTwoBits : AccessBoundary busy := boundary_busy
theorem wit_WriteCr2StoresTheEnables : AccessBoundary busy ∧ (0x80#32).getLsbD 7 = true := ⟨boundary_busy, by decide⟩
theorem wit_WriteSrClearsTheErrorFlags : AccessBoundary busy := boundary_busy
theorem wit_WriteCsctrlDrivesTheLines : AccessBoundary busy := boundary_busy
theorem wit_ReadDrPopsOrUnderruns :
    busy.rxbuf = some 0x5E#8 ∧ State.reset.rxbuf = none ∧ AccessBoundary State.reset := ⟨rfl, rfl, boundary_reset⟩
theorem wit_WriteDrExchangesOrOverruns :
    (State.reset.txbuf = none ∧ State.reset.rxbuf = none) ∧ (busy.txbuf = none ∧ busy.rxbuf = some 0x5E#8) ∧
      ({ State.reset with txbuf := some 0x11#8 } : State).txbuf = some 0x11#8 := ⟨⟨rfl, rfl⟩, ⟨rfl, rfl⟩, rfl⟩
theorem wit_InvalidAccessIsReportedOnly :
    0x11#32 ∉ [0x00#32, 0x04#32, 0x08#32, 0x0C#32, 0x10#32] ∧ AccessBoundary busy := ⟨by decide, boundary_busy⟩
theorem wit_ResetForgetsThePast :
    ∃ t t', busy.numCs = State.reset.numCs ∧ exec .reset busy = .next t ∧ exec .reset State.reset = .next t' :=
  ⟨_, _, rfl, rfl, rfl⟩
theorem wit_ResetStateValues :
    3 < State.reset.numCs ∧ (Instr.rdSr, 0x00000002#32) ∈ [(Instr.rdCr1, 0x00000000#32), (.rdCr2, 0x00000000#32),
      (.rdSr, 0x00000002#32), (.rdCsctrl, 0x00000000#32)] := by decide
theorem wit_FirstResetGivesTheResetState : ∃ s, construct 4 true busy = .ok s := ⟨_, rfl⟩
theorem wit_ConstructionRefusesBadConfiguration : (0 < 1 ∨ 4 < 0) ∧ (5 < 1 ∨ 4 < 5) ∧ 1 ≤ 4 ∧ 4 ≤ 4 := by decide
theorem wit_DrainOnEveryState :
    State.reset.txbuf = none ∧
      (({ State.reset with txbuf := some 0xA1#8 } : State).txbuf = some 0xA1#8 ∧ State.reset.rxbuf = none) ∧
      ({ busy with txbuf := some 0xA2#8 } : State).txbuf = some 0xA2#8 ∧ busy.rxbuf = some 0x5E#8 :=
  ⟨rfl, ⟨rfl, rfl⟩, rfl, rfl⟩
theorem wit_UpdateIrqIsIdempotent : AccessBoundary busy := boundary_busy
theorem wit_UpdateCsDecodesEveryLine :
    (3 < State.reset.numCs ∧ State.reset.csctrl.getLsbD 3 = false ∧
      ({ State.reset with csctrl := 0x08#32 } : State).csctrl.getLsbD 3 = true) ∧
      (∃ t, exec .reset busy = .next t) ∧ ∃ t, exec (.wrCsctrl 0x35#32) busy = .next t :=
  ⟨by decide, ⟨_, rfl⟩, _, rfl⟩
theorem wit_EveryOperationSettlesTheInterrupt : ∃ t, exec .rdDr busy = .next t := ⟨_, rfl⟩
theorem wit_EventsOfEveryOperation : ∃ t, exec (.wrDr 0xA2#32) busy = .next t := ⟨_, rfl⟩
theorem wit_StateChangesOnlyByItsOwnOperations :
    ∃ t, exec (.rdInvalid 0x14#32) busy = .next t ∧ Instr.rdInvalid 0x14#32 ≠ .reset := ⟨_, rfl, by decide⟩
theorem wit_ErrorFlagsAreSticky :
    (∀ i ∈ [Instr.rdSr, .rdDr, .wrDr 1#32, .wrSr 0x04#32],
      i ≠ .reset ∧ ∀ v, i = .wrSr v → v.getLsbD 3 = false) ∧
    busy.sr.getLsbD 3 = true ∧ ∃ t, runOps [Instr.rdSr, .rdDr, .wrDr 1#32, .wrSr 0x04#32] busy = .next t := by
  refine ⟨?_, by decide, _, rfl⟩
  intro i hi
  simp only [List.mem_cons, List.not_mem_nil, or_false] at hi
  rcases hi with rfl | rfl | rfl | rfl
  · exact ⟨by decide, fun v h => by cases h⟩
  · exact ⟨by decide, fun v h => by cases h⟩
  · exact ⟨by decide, fun v h => by cases h⟩
  · exact ⟨by decide, fun v h => by cases h; decide⟩
theorem wit_ErrorFlagsRiseOnlyInDrAccesses :
    after (.wrDr 1#32) (at_ 0#32 0x03#32 (some 0#8)) (·.sr.getLsbD 3) = some true ∧
      (0x03#32).getLsbD 3 = false ∧
      after .rdDr State.reset (·.sr.getLsbD 2) = some true ∧ State.reset.sr.getLsbD 2 = false := by decide
theorem wit_ErrorFlagsGateNothing :
    (∀ k, k ≠ 2 → k ≠ 3 → (0x07#32).getLsbD k = busy.sr.getLsbD k) ∧ (∃ t, exec .rdDr busy = .next t) ∧
      Instr.rdDr ≠ .rdSr ∧ after .rdDr (at_ 0x40#32 0x0B#32 (some 0x5E#8)) (·.cr2.getLsbD 5) = some false := by
  refine ⟨fun k h2 h3 => ?_, ⟨_, rfl⟩, by decide, by decide⟩
  have h : 0x07#32 = putBit (putBit 0x0B#32 2 true) 3 false := by decide
  show (0x07#32).getLsbD k = (0x0B#32).getLsbD k
  rw [h, getLsbD_putBit _ _ _ _ (by decide), if_neg h3, getLsbD_putBit _ _ _ _ (by decide), if_neg h2]
theorem wit_TxeieHoldsTheInterrupt :
    AccessBoundary busy ∧ after (.wrCr2 0x80#32) busy (·.cr2.getLsbD 7) = some true := ⟨boundary_busy, by decide⟩
theorem wit_InterruptFallsWithItsLastTerm : AccessBoundary busy ∧ busy.rxbuf = some 0x5E#8 := ⟨boundary_busy, rfl⟩
theorem wit_NothingGatesTheExchange : (∃ t, exec (.wrDr 0xA2#32) busy = .next t) ∧ busy.txbuf = none := ⟨⟨_, rfl⟩, rfl⟩
theorem wit_StoredOnlyBitsChangeNothing :
    Instr.rdDr ≠ .rdCr1 ∧ Instr.rdDr ≠ .rdCr2 ∧
      (∀ k, k ≠ 4 → (0x70#32).getLsbD k = busy.cr2.getLsbD k) ∧ ∃ t, exec .rdDr busy = .next t := by
  refine ⟨by decide, by decide, fun k hk => ?_, _, rfl⟩
  have h : 0x70#32 = putBit 0x60#32 4 true := by decide
  show (0x70#32).getLsbD k = (0x60#32).getLsbD k
  rw [h, getLsbD_putBit _ _ _ _ (by decide), if_neg hk]
theorem wit_PeerSeesExchangesAndLevelsOnly :
    (∃ t, exec .rdDr busy = .next t) ∧ sends .rdDr = false ∧
      (after (.wrCsctrl 0x0F#32) State.reset (·.cs) = some State.reset.cs ∧
        after .reset State.reset (·.cs) = some State.reset.cs ∧ TraceAgrees State.reset) :=
  ⟨⟨_, rfl⟩, rfl, by decide, by decide, ⟨rfl, rfl⟩⟩
theorem wit_ExchangesEqualDrWrites :
    AccessBoundary busy ∧ ∃ t, runOps [.wrDr 1#32, .rdDr, .wrDr 2#32] busy = .next t := ⟨boundary_busy, _, rfl⟩
theorem wit_WriteThenReadReturnsTheAnswer : AccessBoundary State.reset ∧ State.reset.rxbuf = none :=
  ⟨boundary_reset, rfl⟩
theorem wit_BackToBackWritesKeepTheFirstAnswer : AccessBoundary State.reset ∧ State.reset.rxbuf = none :=
  ⟨boundary_reset, rfl⟩
theorem wit_PseudoTransactionsHaveTheirEffects :
    AccessBoundary State.reset ∧ (Pseudo.sel 3).wf State.reset.numCs = true ∧ State.reset.rxbuf = none :=
  ⟨boundary_reset, by decide, rfl⟩
theorem wit_RegisterBytesAreLittleEndian :
    (0x0C, busy.dr) ∈ [(0x00, busy.cr1), (0x04, busy.cr2), (0x08, busy.sr), (0x0C, busy.dr), (0x10, busy.csctrl)] ∧
      (3 < 4 ∧ 7 < 8) := by simp
theorem wit_StepKeepsTheLifecycleInvariant :
    (Lifecycle fresh ∧ ∃ t, step fresh = .next t) ∧
      Lifecycle (placeRequest busy (.bus ⟨false, 0x0C#32, 0#32⟩)) ∧
      ∃ t, step (placeRequest busy (.bus ⟨false, 0x0C#32, 0#32⟩)) = .next t := by
  refine ⟨⟨⟨by decide, fun h => by cases h⟩, _, rfl⟩, ⟨by decide, fun _ => ?_⟩, _, rfl⟩
  have h := boundary_busy
  exact ⟨h.inv1, h.inv2, h.inv3, h.inv4, h.inv5, h.inv6cr1, h.inv6cr2, h.inv6cs, h.inv7, h.inv8, h.inv9, h.lines⟩
theorem wit_OperationsReachAnAccessBoundary :
    (∃ t, exec (.wrDr 1#32) busy = .next t) ∧ AccessBoundary busy ∧
      (∃ t, exec .reset fresh = .next t) ∧ Config.legalNumCs fresh.numCs ∧
      ∃ t, exec (.wrCr2 0x80#32) busy = .next t ∧ t.cr2.getLsbD 7 = true :=
  ⟨⟨_, rfl⟩, boundary_busy, ⟨_, rfl⟩, by decide, _, rfl, by decide⟩
theorem wit_TraceKeepsAgreeingWithTheOutputs :
    TraceAgrees State.reset ∧ (∃ t, step State.reset = .next t) ∧ ∃ t, exec .reset busy = .next t :=
  ⟨⟨rfl, rfl⟩, ⟨_, rfl⟩, _, rfl⟩
theorem wit_CompactDescriptionDeterminesTheState : AccessBoundary busy ∧ 3 < busy.numCs := ⟨boundary_busy, by decide⟩
theorem wit_OperationsRefineTheCompactMachine :
    AccessBoundary busy ∧ ∀ v, Instr.wrDr 0xA2#32 = .wrDr v →
      Config.peer (peerView busy.trace) busy.cs 0xA2#8 = Config.peer (peerView busy.trace) busy.cs (v.truncate 8) := by
  refine ⟨boundary_busy, fun v h => ?_⟩
  cases h
  rfl

end Sys2Proof.Tests
end

section
/-! SUPPORT. The error flags through every operation (R17), and the reads straight after reset (R27). -/

namespace Sys2Proof.Machine

/-! ### The error flags through the operations that touch SR -/

theorem getLsbD_srOverrun (k : Nat) : srOverrun.getLsbD k = decide (3 = k) := by
  have h : srOverrun = BitVec.twoPow 32 3 := rfl
  rw [h, BitVec.getLsbD_twoPow]
  rfl

theorem getLsbD_srUnderrun (k : Nat) : srUnderrun.getLsbD k = decide (2 = k) := by
  have h : srUnderrun = BitVec.twoPow 32 2 := rfl
  rw [h, BitVec.getLsbD_twoPow]
  rfl

theorem getLsbD_srBsy (k : Nat) : srBsy.getLsbD k = decide (7 = k) := by
  have h : srBsy = BitVec.twoPow 32 7 := rfl
  rw [h, BitVec.getLsbD_twoPow]
  rfl

/-- `ReadDR` raises UNDERRUN when the receive buffer is empty, and touches no other bit of SR (R102, R103). -/
theorem getLsbD_readDr_sr (s : State) (k : Nat) :
    (readDr s).2.sr.getLsbD k = (s.sr.getLsbD k || (decide (2 = k) && s.rxbuf.isNone)) := by
  cases h : s.rxbuf with
  | none =>
    rw [readDr_none s h]
    simp [raise, getLsbD_setBits, getLsbD_srUnderrun]
  | some b =>
    rw [readDr_some s b h]
    simp

/-- `WriteDR` raises OVERRUN when it finds a buffer occupied, and touches no other bit of SR but BSY (R104, R105,
R123). -/
theorem getLsbD_writeDr_sr (v : Word) (s : State) (k : Nat) (hk : k ≠ 7) :
    (writeDr v s).sr.getLsbD k =
      (s.sr.getLsbD k || (decide (3 = k) && (s.txbuf.isSome || s.rxbuf.isSome))) := by
  cases ht : s.txbuf with
  | some q =>
    rw [writeDr_full v q s ht]
    simp [raise, getLsbD_setBits, getLsbD_srOverrun]
  | none =>
    cases hr : s.rxbuf with
    | none =>
      rw [writeDr_keeps v s ht hr]
      simp [getLsbD_clearBits, getLsbD_srBsy, hk.symm]
    | some q =>
      rw [writeDr_loses v q s ht hr]
      simp [getLsbD_clearBits, getLsbD_setBits, getLsbD_srOverrun, getLsbD_srBsy, hk.symm]

/-- The end of an operation rewrites TXE and RXNE only (R140, R143). -/
theorem getLsbD_sr_of_finish {r : Option Word} {s t : State} (h : finish r s = .next t) {k : Nat} (hk : 2 ≤ k) :
    t.sr.getLsbD k = s.sr.getLsbD k := by
  cases h
  exact getLsbD_updateIrq_sr_of_ge (s.setRdata r) k hk

/-- One operation other than a reset and a clearing write of SR keeps a set error flag (R17). -/
theorem exec_keeps_errorFlag {k : Nat} (hk : k = 2 ∨ k = 3) {i : Instr} {s t : State} (hreset : i ≠ .reset)
    (hclear : ∀ v, i = .wrSr v → v.getLsbD k = false) (hs : s.sr.getLsbD k = true) (h : exec i s = .next t) :
    t.sr.getLsbD k = true := by
  have hk2 : 2 ≤ k := by omega
  cases i with
  | rdCr1 | rdCr2 | rdSr | rdCsctrl | wrCr1 | wrCr2 | wrCsctrl | rdInvalid | wrInvalid =>
    exact (getLsbD_sr_of_finish h hk2).trans hs
  | rdDr => rw [getLsbD_sr_of_finish h hk2, getLsbD_readDr_sr, hs, Bool.true_or]
  | wrDr v => rw [getLsbD_sr_of_finish h hk2, getLsbD_writeDr_sr v s k (by omega), hs, Bool.true_or]
  | wrSr v =>
    rw [getLsbD_sr_of_finish h hk2, setSr_sr, getLsbD_clearBits, getLsbD_masked, hclear v rfl, hs]
    rfl
  | reset => exact absurd rfl hreset

/-- Settles O33: every operation of the list keeps the flag, so the run does. -/
theorem errorFlagsAreSticky : Obligations.ErrorFlagsAreSticky := by
  intro k ops s t hk hops hs hrun
  refine runOps_induction (fun u => u.sr.getLsbD k = true) ops (fun i hi u u' hu he => ?_) s t hs hrun
  obtain ⟨hreset, hclear⟩ := hops i hi
  exact exec_keeps_errorFlag hk hreset hclear hu he

/-! ### Straight after reset -/

/-- An access that only returns a value leaves SR at its reset value when it is the first after a reset (R27). -/
theorem finish_reset (r : Option Word) :
    ∃ t, finish r State.reset = .next t ∧ t.rdata = r ∧ t.sr = 0x00000002#32 :=
  ⟨_, finish_eq r State.reset, rfl, mirrorBuffers_self State.reset.sr true false rfl rfl⟩

/-- The first read of DR after a reset underruns (R27, R103). -/
theorem exec_rdDr_reset :
    ∃ t, exec .rdDr State.reset = .next t ∧ t.rdata = some 0x00000000#32 ∧ t.sr = 0x00000006#32 :=
  ⟨_, rfl, rfl, rfl⟩

/-- Settles O23: the reset state is a literal, and the four plain reads end by `finish` on it. -/
theorem resetStateValues : Obligations.ResetStateValues := by
  refine ⟨rfl, rfl, rfl, rfl, rfl, rfl, rfl, rfl, by decide, fun i v hi => ?_, exec_rdDr_reset⟩
  simp only [List.mem_cons, Prod.mk.injEq, List.not_mem_nil, or_false] at hi
  obtain ⟨rfl, rfl⟩ | ⟨rfl, rfl⟩ | ⟨rfl, rfl⟩ | ⟨rfl, rfl⟩ := hi
  · exact finish_reset (some State.reset.cr1)
  · exact finish_reset (some State.reset.cr2)
  · exact finish_reset (some State.reset.sr)
  · exact finish_reset (some State.reset.csctrl)

end Sys2Proof.Machine
end

section
/-! SUPPORT. The decode of an offset: the five register offsets and all the others (R63, R92). -/

namespace Sys2Proof.Machine

theorem not_isRegOffset_of_not_mem {offset : Word} (h : offset ∉ regOffsets) : (!isRegOffset offset) = true := by
  rw [isRegOffset, Bool.not_eq_true', ← Bool.not_eq_true, List.contains_iff_mem]
  exact h

/-- A read decodes from its offset alone, so the round trip of `RD INVALID`, whose input has `wdata` 0, covers every
`wdata` (R62, R66). -/
theorem decodeBus_read_of_not_mem {offset : Word} (h : offset ∉ regOffsets) (w : Word) :
    decodeBus ⟨false, offset, w⟩ = .rdInvalid offset :=
  Decoded.op.inj (Laws.RoundTrip.rdInvalid offset (not_isRegOffset_of_not_mem h))

theorem decodeBus_write_of_not_mem {offset : Word} (h : offset ∉ regOffsets) (w : Word) :
    decodeBus ⟨true, offset, w⟩ = .wrInvalid offset w :=
  Decoded.op.inj (Laws.RoundTrip.wrInvalid offset w (not_isRegOffset_of_not_mem h))

theorem toNat_mod_four_of_mem_regOffsets : ∀ offset ∈ regOffsets, offset.toNat % 4 = 0 := by simp

/-- Settles O4: a register offset decides every comparison of `decodeBus`, the round trip of the invalid operations
gives the other offsets, and the five register offsets are multiples of 4. -/
theorem offsetsDecodeExactly : Obligations.OffsetsDecodeExactly := by
  refine ⟨fun w => ?registers, fun offset w => ⟨fun h => ?others, fun hmis hmem => ?misaligned⟩, fun t => rfl, rfl⟩
  case registers => exact ⟨rfl, rfl, rfl, rfl, rfl, rfl, rfl, rfl, rfl, rfl⟩
  case others => exact ⟨decodeBus_read_of_not_mem h w, decodeBus_write_of_not_mem h w⟩
  case misaligned => exact hmis (toNat_mod_four_of_mem_regOffsets offset hmem)

end Sys2Proof.Machine
end

section
/-! SUPPORT. The accesses to CR1, CR2, SR, CSCTRL and to invalid offsets: what such an access stores, what its closing
`UpdateIrq` leaves alone, and the values a register can hold at an access boundary (R82 to R91). -/

namespace Sys2Proof.Machine

/-! ### The masks, bit by bit -/

/-- The bits of a word are decided by those below 32. -/
theorem getLsbD_eq_decide {w : Word} (p : Nat → Prop) [DecidablePred p] (hlow : ∀ i < 32, w.getLsbD i = decide (p i))
    (hhigh : ∀ i, p i → i < 32) (i : Nat) : w.getLsbD i = decide (p i) := by
  by_cases h : i < 32
  · exact hlow i h
  · rw [BitVec.getLsbD_of_ge w i (by omega), decide_eq_false (fun hp => h (hhigh i hp))]

theorem getLsbD_cr1Mask (i : Nat) : cr1Mask.getLsbD i = decide (i = 6 ∨ i = 2) :=
  getLsbD_eq_decide (fun i => i = 6 ∨ i = 2) (by decide) (by omega) i

theorem getLsbD_cr2Mask (i : Nat) : cr2Mask.getLsbD i = decide (4 ≤ i ∧ i ≤ 7) :=
  getLsbD_eq_decide (fun i => 4 ≤ i ∧ i ≤ 7) (by decide) (by omega) i

theorem getLsbD_srClearMask (i : Nat) : srClearMask.getLsbD i = decide (i = 2 ∨ i = 3) :=
  getLsbD_eq_decide (fun i => i = 2 ∨ i = 3) (by decide) (by omega) i

theorem getLsbD_csctrlMask (i : Nat) : csctrlMask.getLsbD i = decide (i ≤ 7) :=
  getLsbD_eq_decide (fun i => i ≤ 7) (by decide) (by omega) i

/-- The bits of SR that can be 1: OVERRUN, UNDERRUN, TXE, RXNE and BSY (R14). -/
theorem getLsbD_srBits (i : Nat) : (0x0000008F#32).getLsbD i = decide (i ≤ 3 ∨ i = 7) :=
  getLsbD_eq_decide (fun i => i ≤ 3 ∨ i = 7) (by decide) (by omega) i

/-- `WR SR` clears an error flag where a 1 is written (R86). -/
theorem getLsbD_clearBits_errorFlag (sr v : Word) {i : Nat} (hi : i = 2 ∨ i = 3) :
    (clearBits sr (masked v srClearMask)).getLsbD i = (sr.getLsbD i && !v.getLsbD i) := by
  rw [getLsbD_clearBits, getLsbD_masked, getLsbD_srClearMask, decide_eq_true hi, Bool.and_true]

/-- `WR SR` leaves every other bit alone (R86). -/
theorem getLsbD_clearBits_not_errorFlag (sr v : Word) {i : Nat} (hi : ¬ (i = 2 ∨ i = 3)) :
    (clearBits sr (masked v srClearMask)).getLsbD i = sr.getLsbD i := by
  rw [getLsbD_clearBits, getLsbD_masked, getLsbD_srClearMask, decide_eq_false hi, Bool.and_false, Bool.not_false,
    Bool.and_true]

/-! ### A word with no bit outside a mask -/

theorem masked_eq_self {w mask : Word} (h : w &&& ~~~mask = 0#32) : masked w mask = w := by
  apply BitVec.eq_of_getLsbD_eq
  intro i _
  have hbit : (w.getLsbD i && !mask.getLsbD i) = false := by
    rw [← getLsbD_clearBits, clearBits, h, BitVec.getLsbD_zero]
  rw [getLsbD_masked]
  simpa using hbit

theorem getLsbD_eq_false_of_masked {w mask : Word} (h : w &&& ~~~mask = 0#32) {i : Nat} (hi : mask.getLsbD i = false) :
    w.getLsbD i = false := by
  rw [← masked_eq_self h, getLsbD_masked, hi, Bool.and_false]

theorem toNat_le_of_masked {w mask : Word} (h : w &&& ~~~mask = 0#32) : w.toNat ≤ mask.toNat := by
  rw [← masked_eq_self h, masked, BitVec.toNat_and]
  exact Nat.and_le_right

/-- A stored CR2 is a multiple of 16, as its mask is (R13). -/
theorem toNat_mod_of_cr2Mask {w : Word} (h : w &&& ~~~0xF0#32 = 0#32) : w.toNat % 0x10 = 0 := by
  rw [← masked_eq_self h, masked, BitVec.toNat_and, show 0x10 = 2 ^ 4 from rfl, Nat.and_mod_two_pow]
  exact Nat.and_zero _

/-! ### The values at an access boundary -/

theorem putBit_cr1_mem : ∀ mstr spe : Bool,
    putBit (putBit 0#32 2 mstr) 6 spe ∈ [0x00#32, 0x04#32, 0x40#32, 0x44#32] := by decide

theorem putBit_sr_mem : ∀ overrun underrun rxne : Bool,
    putBit (putBit (putBit 0x02#32 3 overrun) 2 underrun) 0 rxne ∈
      [0x02#32, 0x03#32, 0x06#32, 0x07#32, 0x0A#32, 0x0B#32, 0x0E#32, 0x0F#32] := by decide

/-- INV6 leaves CR1 its bits SPE and MSTR (R12, R30). -/
theorem AccessBoundary.cr1_eq_putBit {s : State} (hb : AccessBoundary s) :
    s.cr1 = putBit (putBit 0#32 2 (s.cr1.getLsbD 2)) 6 (s.cr1.getLsbD 6) := by
  apply BitVec.eq_of_getLsbD_eq
  intro i _
  rw [getLsbD_putBit _ _ _ _ (by decide), getLsbD_putBit _ _ _ _ (by decide)]
  split_ifs with h6 h2
  · rw [h6]
  · rw [h2]
  · rw [BitVec.getLsbD_zero]
    exact getLsbD_eq_false_of_masked hb.inv6cr1 (by rw [getLsbD_cr1Mask]; simp [h6, h2])

/-- INV2, INV4 and INV5 fix every bit of SR but OVERRUN, UNDERRUN and RXNE (R30). -/
theorem AccessBoundary.sr_eq_putBit {s : State} (hb : AccessBoundary s) :
    s.sr = putBit (putBit (putBit 0x02#32 3 (s.sr.getLsbD 3)) 2 (s.sr.getLsbD 2)) 0 (s.sr.getLsbD 0) := by
  apply BitVec.eq_of_getLsbD_eq
  intro i _
  rw [getLsbD_putBit _ _ _ _ (by decide), getLsbD_putBit _ _ _ _ (by decide), getLsbD_putBit _ _ _ _ (by decide),
    show 0x02#32 = BitVec.twoPow 32 1 from rfl, BitVec.getLsbD_twoPow]
  split_ifs with h0 h2 h3
  · rw [h0]
  · rw [h2]
  · rw [h3]
  · by_cases h1 : i = 1
    · subst h1
      exact hb.inv2
    · rw [decide_eq_false (Ne.symm h1), Bool.and_false]
      by_cases h7 : i = 7
      · rw [h7]
        exact hb.inv4
      · exact getLsbD_eq_false_of_masked (mask := 0x0000008F#32) hb.inv5
          (by rw [getLsbD_srBits, decide_eq_false (by omega)])

theorem AccessBoundary.cr1_mem {s : State} (hb : AccessBoundary s) :
    s.cr1 ∈ [0x00#32, 0x04#32, 0x40#32, 0x44#32] := by
  rw [hb.cr1_eq_putBit]
  exact putBit_cr1_mem _ _

theorem AccessBoundary.sr_mem {s : State} (hb : AccessBoundary s) :
    s.sr ∈ [0x02#32, 0x03#32, 0x06#32, 0x07#32, 0x0A#32, 0x0B#32, 0x0E#32, 0x0F#32] := by
  rw [hb.sr_eq_putBit]
  exact putBit_sr_mem _ _ _

/-! ### What an access changes before it ends -/

theorem keepsBut_refl (s : State) : KeepsBut [] s s := by constructor <;> simp

theorem keepsBut_setCr1 (s : State) (v : Word) : KeepsBut [.cr1] s (s.setCr1 v) := by constructor <;> simp

theorem keepsBut_setCr2 (s : State) (v : Word) : KeepsBut [.cr2] s (s.setCr2 v) := by constructor <;> simp

theorem keepsBut_setSr (s : State) (v : Word) : KeepsBut [] s (s.setSr v) := by constructor <;> simp

theorem keepsBut_record (s : State) (e : Event) : KeepsBut [] s (s.record e) := by constructor <;> simp

theorem keepsBut_updateCs_setCsctrl (s : State) (v : Word) :
    KeepsBut [.csctrl, .cs] s (updateCs (s.setCsctrl v)) := by constructor <;> simp

/-! ### How an access ends -/

section
variable {changed : List Cell} {bits : List Nat} {r : Option Word} {s u t : State}

/-- The closing `UpdateIrq` and the value returned change none of the cells (R18, R143). -/
theorem KeepsBut.of_finish (h : KeepsBut changed s u) (ht : finish r u = .next t) : KeepsBut changed s t := by
  cases ht
  obtain ⟨hcr1, hcr2, hdr, hcsctrl, htx, hrx, hcs, hphase, hnum, hreq⟩ := h
  exact ⟨hcr1, hcr2, hdr, hcsctrl, htx, hrx, hcs, hphase, hnum, hreq⟩

/-- In SR the closing `UpdateIrq` changes TXE and RXNE only (R140). -/
theorem SrKeepsBut.of_finish (h : SrKeepsBut bits s u) (ht : finish r u = .next t) :
    SrKeepsBut (0 :: 1 :: bits) s t := by
  intro i hi
  simp only [List.mem_cons, not_or] at hi
  obtain ⟨h0, h1, hbits⟩ := hi
  exact (getLsbD_sr_of_finish ht (by omega)).trans (h i hbits)

/-- The end of every access: the value returned, the frame of what came before, SR and `irq` settled, and `IrqSet` as
the last event (R128, R140, R143). -/
theorem finish_frame (ht : finish r u = .next t) (hkeep : KeepsBut changed s u) (hsr : SrKeepsBut bits s u) :
    t.rdata = r ∧ KeepsBut changed s t ∧ SrKeepsBut (0 :: 1 :: bits) s t ∧ Settled t ∧
      t.trace = .irqSet t.irq :: u.trace := by
  refine ⟨?rdata, hkeep.of_finish ht, hsr.of_finish ht, ?settled, ?trace⟩ <;> cases ht
  case rdata => rfl
  case settled => exact settled_updateIrq _
  case trace => exact updateIrq_trace _

/-- TXE and RXNE already mirror the buffers at an access boundary, so the closing `UpdateIrq` of an access that touches
neither them nor the buffers writes nothing to SR (INV1 to INV3). -/
theorem AccessBoundary.sr_of_finish (hb : AccessBoundary s) (ht : finish r u = .next t) (hkeep : KeepsBut changed s u)
    (hcells : Cell.txbuf ∉ changed ∧ Cell.rxbuf ∉ changed) (hsr : SrKeepsBut bits s u)
    (hbits : 0 ∉ bits ∧ 1 ∉ bits) : t.sr = u.sr := by
  cases ht
  obtain ⟨htx, hrx⟩ := hcells
  obtain ⟨h0, h1⟩ := hbits
  have htxe : u.sr.getLsbD 1 = u.txbuf.isNone := by rw [hsr 1 h1, hb.inv2, hkeep.txbuf htx, hb.inv1]; rfl
  have hrxne : u.sr.getLsbD 0 = !u.rxbuf.isNone := by rw [hsr 0 h0, hb.inv3, hkeep.rxbuf hrx, Option.not_isNone]
  exact mirrorBuffers_self u.sr u.txbuf.isNone (!u.rxbuf.isNone) htxe hrxne

theorem irqOf_congr (hsr : t.sr = s.sr) (hcr2 : t.cr2 = s.cr2) : irqOf t = irqOf s := by
  rw [irqOf, irqOf, hsr, hcr2]

/-- An access that writes neither SR, nor CR2, nor a buffer, ends with SR and `irq` settled, and at an access boundary
with both as they were. -/
theorem finish_of_sr_eq (ht : finish r u = .next t) (hkeep : KeepsBut changed s u)
    (hcells : Cell.cr2 ∉ changed ∧ Cell.txbuf ∉ changed ∧ Cell.rxbuf ∉ changed) (hsr : u.sr = s.sr) :
    t.rdata = r ∧ KeepsBut changed s t ∧ SrKeepsBut [0, 1] s t ∧ Settled t ∧
      t.trace = .irqSet t.irq :: u.trace ∧ (AccessBoundary s → t.sr = s.sr ∧ t.irq = s.irq) := by
  obtain ⟨hcr2, hbuffers⟩ := hcells
  have hkeepSr : SrKeepsBut [] s u := fun i _ => by rw [hsr]
  obtain ⟨hrdata, hkeep', hkeepSr', hsettled, htrace⟩ := finish_frame ht hkeep hkeepSr
  refine ⟨hrdata, hkeep', hkeepSr', hsettled, htrace, fun hb => ?_⟩
  have hsr' : t.sr = s.sr := (hb.sr_of_finish ht hkeep hbuffers hkeepSr (by decide)).trans hsr
  refine ⟨hsr', ?_⟩
  calc t.irq = irqOf t := hsettled.level
    _ = irqOf s := irqOf_congr hsr' (hkeep'.cr2 hcr2)
    _ = s.irq := hb.inv7.symm

end

/-! ### The statements -/

/-- Settles O13: each of the four reads is `finish` on the untouched state, and the values are read off INV2 and INV4
to INV6. -/
theorem readReturnsTheStoredRegister : Obligations.ReadReturnsTheStoredRegister := by
  refine ⟨fun s offset w i v hmem => ?read, fun s hb => ?values⟩
  case read =>
    have hread : decodeBus ⟨false, offset, w⟩ = i ∧ exec i s = finish (some v) s := by
      simp only [List.mem_cons, Prod.mk.injEq, List.not_mem_nil, or_false] at hmem
      obtain ⟨rfl, rfl, rfl⟩ | ⟨rfl, rfl, rfl⟩ | ⟨rfl, rfl, rfl⟩ | ⟨rfl, rfl, rfl⟩ := hmem <;> exact ⟨rfl, rfl⟩
    obtain ⟨hdecode, hexec⟩ := hread
    have ht := finish_eq (some v) s
    exact ⟨hdecode, _, hexec.trans ht, finish_of_sr_eq ht (keepsBut_refl s) (by decide) rfl⟩
  case values =>
    exact ⟨hb.cr1_mem, ⟨toNat_mod_of_cr2Mask hb.inv6cr2, toNat_le_of_masked hb.inv6cr2⟩, hb.sr_mem,
      toNat_le_of_masked hb.inv6cs⟩

/-- Settles O14: `WR CR1` is `finish` after one masked write to a cell that `UpdateIrq` does not read. -/
theorem writeCr1StoresTwoBits : Obligations.WriteCr1StoresTwoBits := by
  intro v s
  have hbits : ∀ i, (masked v cr1Mask).getLsbD i = (v.getLsbD i && decide (i = 6 ∨ i = 2)) := fun i => by
    rw [getLsbD_masked, getLsbD_cr1Mask]
  have ht := finish_eq none (s.setCr1 (masked v cr1Mask))
  have hend := finish_of_sr_eq ht (keepsBut_setCr1 s _) (by decide) rfl
  exact ⟨rfl, _, ht, hbits, hend⟩

/-- Settles O15: `UpdateIrq` runs on the new enables; at an access boundary TXE is set, so TXEIE alone raises `irq`. -/
theorem writeCr2StoresTheEnables : Obligations.WriteCr2StoresTheEnables := by
  intro v s
  have hbits : ∀ i, (masked v cr2Mask).getLsbD i = (v.getLsbD i && decide (4 ≤ i ∧ i ≤ 7)) := fun i => by
    rw [getLsbD_masked, getLsbD_cr2Mask]
  have ht := finish_eq none (s.setCr2 (masked v cr2Mask))
  have hkeep := keepsBut_setCr2 s (masked v cr2Mask)
  have hkeepSr : SrKeepsBut [] s (s.setCr2 (masked v cr2Mask)) := fun _ _ => rfl
  have hboundary := fun hb : AccessBoundary s => hb.sr_of_finish ht hkeep (by decide) hkeepSr (by decide)
  obtain ⟨hrdata, hkeep', hkeepSr', hsettled, htrace⟩ := finish_frame ht hkeep hkeepSr
  refine ⟨rfl, _, ht, hbits, hrdata, hkeep', hkeepSr', hsettled, htrace, fun hb => ⟨hboundary hb, fun h7 => ?txeie⟩⟩
  case txeie =>
    have htxeie : (masked v cr2Mask).getLsbD 7 = true := by rw [hbits, h7]; rfl
    simp [updateIrq_irq, hb.inv1, htxeie]

/-- Settles O16: the write clears bits 3 and 2 where `v` has a 1, and the closing `UpdateIrq` reaches only bits 1 and
0, which are settled already at an access boundary. -/
theorem writeSrClearsTheErrorFlags : Obligations.WriteSrClearsTheErrorFlags := by
  intro v s
  have ht := finish_eq none (s.setSr (clearBits s.sr (masked v srClearMask)))
  have hkeep := keepsBut_setSr s (clearBits s.sr (masked v srClearMask))
  have hkeepSr : SrKeepsBut [2, 3] s (s.setSr (clearBits s.sr (masked v srClearMask))) :=
    fun k hk => getLsbD_clearBits_not_errorFlag s.sr v (by simpa using hk)
  have hoverrun := (getLsbD_sr_of_finish ht (k := 3) (by decide)).trans
    (getLsbD_clearBits_errorFlag s.sr v (.inr rfl))
  have hunderrun := (getLsbD_sr_of_finish ht (k := 2) (by decide)).trans
    (getLsbD_clearBits_errorFlag s.sr v (.inl rfl))
  have hboundary := fun hb : AccessBoundary s => hb.sr_of_finish ht hkeep (by decide) hkeepSr (by decide)
  obtain ⟨hrdata, hkeep', hkeepSr', hsettled, htrace⟩ := finish_frame ht hkeep hkeepSr
  exact ⟨rfl, _, ht, hoverrun, hunderrun, hrdata, hkeep', hkeepSr', hsettled, htrace, hboundary⟩

/-- Settles O17: `UpdateCs` drives the lines from the masked value, and `UpdateIrq` keeps them. -/
theorem writeCsctrlDrivesTheLines : Obligations.WriteCsctrlDrivesTheLines := by
  intro v s
  have hbits : ∀ i, (masked v csctrlMask).getLsbD i = (v.getLsbD i && decide (i ≤ 7)) := fun i => by
    rw [getLsbD_masked, getLsbD_csctrlMask]
  have ht := finish_eq none (updateCs (s.setCsctrl (masked v csctrlMask)))
  have hlines := linesFollow_updateCs (s.setCsctrl (masked v csctrlMask))
  have hend := finish_of_sr_eq ht (keepsBut_updateCs_setCsctrl s _) (by decide) rfl
  exact ⟨rfl, _, ht, hbits, hlines, hend⟩

/-- Settles O20: raising the condition only records the diagnostic, and `finish` ends both directions. -/
theorem invalidAccessIsReportedOnly : Obligations.InvalidAccessIsReportedOnly := by
  refine fun s offset v w => ⟨fun h => ?decode, ?read, ?write⟩
  case decode => exact ⟨decodeBus_read_of_not_mem h w, decodeBus_write_of_not_mem h v⟩
  case read =>
    have ht := finish_eq (some 0x00000000#32) (s.record (.diag (.invalidRead offset)))
    have hend := finish_of_sr_eq ht (keepsBut_record s _) (by decide) rfl
    exact ⟨_, ht, hend⟩
  case write =>
    have ht := finish_eq none (s.record (.diag (.invalidWrite offset v)))
    have hend := finish_of_sr_eq ht (keepsBut_record s _) (by decide) rfl
    exact ⟨_, ht, hend⟩

end Sys2Proof.Machine
end

section
/-! SUPPORT. The data register: a read pops the receive buffer or underruns, a write sends one byte or overruns (R102
to R105). -/

namespace Sys2Proof.Machine

/-! ### The read and the write of DR, branch by branch -/

section
variable {s : State} {b q : Byte}

theorem exec_rdDr_some (h : s.rxbuf = some b) : exec .rdDr s = finish (some (zextByte b)) (s.setRxbuf none) := by
  rw [exec, execRdDr, readDr_some s b h]

theorem exec_rdDr_none (h : s.rxbuf = none) : exec .rdDr s = finish (some 0x00000000#32) (raise .underrun s) := by
  rw [exec, execRdDr, readDr_none s h]

theorem exec_wrDr (v : Word) (s : State) : exec (.wrDr v) s = finish none (writeDr v s) := rfl

theorem exec_wrDr_full (v : Word) (h : s.txbuf = some q) : exec (.wrDr v) s = finish none (raise .overrun s) := by
  rw [exec_wrDr, writeDr_full v q s h]

end

/-! ### An access that raises an error flag -/

theorem keepsBut_setRxbuf (s : State) (b : Option Byte) : KeepsBut [.rxbuf] s (s.setRxbuf b) := by
  constructor <;> simp

theorem getLsbD_raise_overrun (s : State) (k : Nat) :
    (raise .overrun s).sr.getLsbD k = (s.sr.getLsbD k || decide (3 = k)) := by
  rw [raise, setSr_sr, getLsbD_setBits, getLsbD_srOverrun]

theorem getLsbD_raise_underrun (s : State) (k : Nat) :
    (raise .underrun s).sr.getLsbD k = (s.sr.getLsbD k || decide (2 = k)) := by
  rw [raise, setSr_sr, getLsbD_setBits, getLsbD_srUnderrun]

/-- An access that only sets one error flag ends with the flag set and all else settled as it was (R103, R105). -/
theorem finish_of_flag_set {flag : Nat} {r : Option Word} {s u t : State} (hflag : 2 ≤ flag)
    (ht : finish r u = .next t) (hkeep : KeepsBut [] s u)
    (hbits : ∀ k, u.sr.getLsbD k = (s.sr.getLsbD k || decide (flag = k))) :
    t.sr.getLsbD flag = true ∧ t.rdata = r ∧ KeepsBut [] s t ∧ SrKeepsBut [0, 1, flag] s t ∧ Settled t ∧
      t.trace = .irqSet t.irq :: u.trace := by
  have hset : t.sr.getLsbD flag = true := by simp [getLsbD_sr_of_finish ht hflag, hbits]
  have hkeepSr : SrKeepsBut [flag] s u := fun k hk => by
    rw [hbits, decide_eq_false (by simpa [eq_comm] using hk), Bool.or_false]
  exact ⟨hset, finish_frame ht hkeep hkeepSr⟩

/-- Once UNDERRUN is set and nothing has been received, ERRIE decides between 1 and the old level (R103, R141). -/
theorem AccessBoundary.irq_of_underrun {s t : State} (hb : AccessBoundary s) (hrx : s.rxbuf = none)
    (hkeep : KeepsBut [] s t) (hset : t.sr.getLsbD 2 = true) (hsettled : Settled t) :
    t.irq = (s.irq || s.cr2.getLsbD 5) := by
  have hcr2 : t.cr2 = s.cr2 := hkeep.cr2 (by decide)
  have htxe : t.sr.getLsbD 1 = true := by rw [hsettled.txe, hkeep.txbuf (by decide), hb.inv1]; rfl
  have hrxne : t.sr.getLsbD 0 = false := by rw [hsettled.rxne, hkeep.rxbuf (by decide), hrx]; rfl
  have hrxneOld : s.sr.getLsbD 0 = false := by rw [hb.inv3, hrx]; rfl
  have hnew : t.irq = (s.cr2.getLsbD 7 || s.cr2.getLsbD 5) := by
    rw [hsettled.level, irqOf, hcr2, htxe, hrxne, hset]
    simp
  have hold : s.irq = (s.cr2.getLsbD 7 || ((s.sr.getLsbD 3 || s.sr.getLsbD 2) && s.cr2.getLsbD 5)) := by
    rw [hb.inv7, irqOf, hb.inv2, hrxneOld]
    simp
  rw [hnew, hold]
  cases s.cr2.getLsbD 5 <;> simp

/-! ### A write of DR -/

/-- A write of DR changes no bit of SR but OVERRUN and BSY before the closing `UpdateIrq` (R104, R105, R123). -/
theorem srKeepsBut_writeDr (v : Word) (s : State) : SrKeepsBut [3, 7] s (writeDr v s) := by
  intro k hk
  simp only [List.mem_cons, List.not_mem_nil, or_false, not_or] at hk
  obtain ⟨h3, h7⟩ := hk
  rw [getLsbD_writeDr_sr v s k h7, decide_eq_false (Ne.symm h3), Bool.false_and, Bool.or_false]

theorem getLsbD_clearBits_srBsy (w : Word) : (clearBits w srBsy).getLsbD 7 = false := by
  rw [getLsbD_clearBits, getLsbD_srBsy, decide_eq_true rfl, Bool.not_true, Bool.and_false]

/-! ### A write that finds the transmit buffer empty -/

section
variable {s : State} (v : Word) (htx : s.txbuf = none)
include htx

/-- The byte sent leaves the transmit buffer as it found it; the receive buffer holds the older of its byte and the
answer (R104, R123). -/
theorem writeDr_sends :
    writeDr v s = { s with
      rxbuf := some (s.rxbuf.getD (peerAnswer s (dataByte v))), sr := (writeDr v s).sr,
      trace := .xfer (dataByte v) (peerAnswer s (dataByte v)) :: s.trace } := by
  cases hrx : s.rxbuf with
  | none => rw [writeDr_keeps v s htx hrx]; simp [htx]
  | some q => rw [writeDr_loses v q s htx hrx]; simp [htx, hrx]

theorem writeDr_rxbuf : (writeDr v s).rxbuf = some (s.rxbuf.getD (peerAnswer s (dataByte v))) := by
  rw [writeDr_sends v htx]

theorem writeDr_trace :
    (writeDr v s).trace = .xfer (dataByte v) (peerAnswer s (dataByte v)) :: s.trace := by
  rw [writeDr_sends v htx]

theorem keepsBut_writeDr : KeepsBut [.rxbuf] s (writeDr v s) := by
  rw [writeDr_sends v htx]
  constructor <;> simp

/-- The drain clears BSY on both of its paths (R120, R125). -/
theorem getLsbD_writeDr_sr_bsy : (writeDr v s).sr.getLsbD 7 = false := by
  cases hrx : s.rxbuf with
  | none => rw [writeDr_keeps v s htx hrx]; exact getLsbD_clearBits_srBsy _
  | some q => rw [writeDr_loses v q s htx hrx]; exact getLsbD_clearBits_srBsy _

/-- With room for the answer, no bit of SR but BSY changes before the closing `UpdateIrq` (R104). -/
theorem srKeepsBut_writeDr_room (hrx : s.rxbuf = none) : SrKeepsBut [7] s (writeDr v s) := by
  intro k hk
  rw [getLsbD_writeDr_sr v s k (by simpa using hk), htx, hrx]
  simp

end

/-! ### The statements -/

/-- Settles O18: a byte received is popped before `finish` closes the read; with none, UNDERRUN is the one bit set, and
INV1 to INV3 and INV7 give `irq` at an access boundary. -/
theorem readDrPopsOrUnderruns : Obligations.ReadDrPopsOrUnderruns := by
  refine ⟨fun w => rfl, fun s b hrx => ?pops, fun s hrx => ?underruns⟩
  case pops =>
    have ht := finish_eq (some (zextByte b)) (s.setRxbuf none)
    have hkeepSr : SrKeepsBut [] s (s.setRxbuf none) := fun _ _ => rfl
    obtain ⟨hrdata, hkeep, hkeepSr', hsettled, htrace⟩ := finish_frame ht (keepsBut_setRxbuf s none) hkeepSr
    exact ⟨_, (exec_rdDr_some hrx).trans ht, hrdata, rfl, hsettled.rxne, hkeep, hkeepSr', hsettled, htrace⟩
  case underruns =>
    have ht := finish_eq (some 0x00000000#32) (raise .underrun s)
    obtain ⟨hset, hrdata, hkeep, hkeepSr, hsettled, htrace⟩ :=
      finish_of_flag_set (by decide) ht (keepsBut_setSr s _) (getLsbD_raise_underrun s)
    have hrxne := hsettled.rxne.trans (congrArg Option.isSome ((hkeep.rxbuf (by decide)).trans hrx))
    exact ⟨_, (exec_rdDr_none hrx).trans ht, hrdata, hset, hrxne, hkeep, hkeepSr, hsettled, htrace,
      fun hb => hb.irq_of_underrun hrx hkeep hset hsettled⟩

/-- Settles O19: with the transmit buffer empty the write is one drain, whose answer is kept or lost as the receive
buffer has room or not; with it full, OVERRUN is the one bit set. -/
theorem writeDrExchangesOrOverruns : Obligations.WriteDrExchangesOrOverruns := by
  refine ⟨fun v => rfl, fun v s htx => ?sends, fun v s q htx => ?overruns⟩
  case sends =>
    have ht := finish_eq none (writeDr v s)
    obtain ⟨hrdata, hkeep, _, hsettled, htrace⟩ :=
      finish_frame ht (keepsBut_writeDr v htx) (srKeepsBut_writeDr v s)
    rw [writeDr_trace v htx] at htrace
    have htxbuf := (hkeep.txbuf (by decide)).trans htx
    have hbsy := (getLsbD_sr_of_finish ht (by decide)).trans (getLsbD_writeDr_sr_bsy v htx)
    have htxe := hsettled.txe.trans (congrArg Option.isNone htxbuf)
    have hrxne := hsettled.rxne.trans (congrArg Option.isSome (writeDr_rxbuf v htx))
    refine ⟨_, ht, htxbuf, hbsy, htxe, hrxne, fun hrx => ⟨?answer, ?room⟩,
      fun q hrx => ⟨?oldByte, ?overrun, ?noRoom⟩, hrdata, hkeep, hsettled, htrace⟩
    case answer => exact (writeDr_rxbuf v htx).trans (by rw [hrx]; rfl)
    case room => exact (srKeepsBut_writeDr_room v htx hrx).of_finish ht
    case oldByte => exact (writeDr_rxbuf v htx).trans (by rw [hrx]; rfl)
    case overrun => rw [getLsbD_sr_of_finish ht (by decide), getLsbD_writeDr_sr v s 3 (by decide), hrx]; simp
    case noRoom => exact (srKeepsBut_writeDr v s).of_finish ht
  case overruns =>
    have ht := finish_eq none (raise .overrun s)
    obtain ⟨hset, hrdata, hkeep, hkeepSr, hsettled, htrace⟩ :=
      finish_of_flag_set (by decide) ht (keepsBut_setSr s _) (getLsbD_raise_overrun s)
    have htxbuf := (hkeep.txbuf (by decide)).trans htx
    have htxe := hsettled.txe.trans (congrArg Option.isNone htxbuf)
    exact ⟨_, (exec_wrDr_full v htx).trans ht, htxbuf, hset, htxe, hrdata, hkeep, hkeepSr, hsettled, htrace⟩

end Sys2Proof.Machine
end

section
/-! SUPPORT. The transfer engine: the drain on every state, and the one pass of its loop (R120, R124). -/

namespace Sys2Proof.Machine

/-! ### One answer delivered -/

/-- An answer goes to the receive buffer or is lost: it never refills the transmit buffer (R120, R123). -/
@[simp] theorem deliver_txbuf (r : Byte) (s : State) : (deliver r s).txbuf = s.txbuf := by
  obtain ⟨_, h⟩ | ⟨_, _, h⟩ := deliver_cases r s <;> rw [h] <;> rfl

@[simp] theorem deliver_trace (r : Byte) (s : State) : (deliver r s).trace = s.trace := by
  obtain ⟨_, h⟩ | ⟨_, _, h⟩ := deliver_cases r s <;> rw [h] <;> rfl

/-! ### The loop of the drain -/

/-- After one pass the transmit buffer is empty: the popped byte was the only one (R20, R124). -/
theorem drainLoop_one_txbuf (s : State) : (drainLoop 1 s).txbuf = none := by
  cases htx : s.txbuf with
  | none => rw [drainLoop_empty 1 s htx, htx]
  | some b => rw [drainLoop_one s b htx, deliver_txbuf]; rfl

/-- The first pass leaves nothing for the passes after it (R124). -/
theorem drainLoop_succ (n : Nat) (s : State) : drainLoop (n + 1) s = drainLoop 1 s := by
  have hsplit : drainLoop (n + 1) s = drainLoop n (drainLoop 1 s) := by
    cases htx : s.txbuf with
    | none => rw [drainLoop_empty (n + 1) s htx, drainLoop_empty 1 s htx, drainLoop_empty n s htx]
    | some b => rw [drainLoop_one s b htx]; simp [drainLoop, txPop, htx]
  rw [hsplit, drainLoop_empty n _ (drainLoop_one_txbuf s)]

/-- The pass exchanges the waiting byte, if there is one (R124). -/
theorem exchanges_drainLoop_one (s : State) :
    exchanges (drainLoop 1 s).trace = exchanges s.trace + (if s.txbuf.isSome then 1 else 0) := by
  cases htx : s.txbuf with
  | none => rw [drainLoop_empty 1 s htx]; rfl
  | some b => rw [drainLoop_one s b htx, deliver_trace]; rfl

/-! ### The statements -/

/-- Settles O27: every bound behaves as bound 1, whose pass empties the buffer and exchanges the byte it held. -/
theorem drainLoopRunsAtMostOnce : Obligations.DrainLoopRunsAtMostOnce := by
  intro n s
  rw [drainLoop_succ]
  exact ⟨rfl, drainLoop_one_txbuf s, exchanges_drainLoop_one s⟩

/-- Settles O26: the rows are `drain_empty`, `drain_room` and `drain_full`, whose SR words and peer's answer are the
statement's by definition. -/
theorem drainOnEveryState : Obligations.DrainOnEveryState :=
  fun s => ⟨drain_empty s, drain_room s, drain_full s⟩

end Sys2Proof.Machine
end

section
/-! SUPPORT. The interrupt aggregator: every operation ends by `UpdateIrq`, and none reads the old level of `irq`
(R141 to R144). -/

namespace Sys2Proof.Machine

/-! ### The state every operation ends in -/

/-- The level of a settled state, by its three enabled conditions (R141). -/
theorem irqOf_eq_true_iff (t : State) :
    irqOf t = true ↔
      (t.sr.getLsbD 1 = true ∧ t.cr2.getLsbD 7 = true) ∨ (t.sr.getLsbD 0 = true ∧ t.cr2.getLsbD 6 = true) ∨
        ((t.sr.getLsbD 3 = true ∨ t.sr.getLsbD 2 = true) ∧ t.cr2.getLsbD 5 = true) := by
  simp only [irqOf, Bool.or_eq_true, Bool.and_eq_true, or_assoc]

/-- All thirteen operations end by `finish`, a reset among them (R143). -/
theorem exec_eq_finish (i : Instr) (s : State) : ∃ r u, exec i s = finish r u := by
  cases i <;> exact ⟨_, _, rfl⟩

theorem settled_of_exec {i : Instr} {s t : State} (h : exec i s = .next t) : Settled t := by
  obtain ⟨r, u, hfinish⟩ := exec_eq_finish i s
  rw [hfinish] at h
  cases h
  exact settled_updateIrq (u.setRdata r)

/-! ### The old level is never read -/

section
variable (s : State) (level : Bool)

/-- `UpdateIrq` drives `irq` whole (R144). -/
@[simp] theorem finish_setIrq (r : Option Word) : finish r (s.setIrq level) = finish r s := rfl

theorem readDr_setIrq : readDr (s.setIrq level) = ((readDr s).1, (readDr s).2.setIrq level) := by
  cases hrx : s.rxbuf with
  | none => rw [readDr_none s hrx, readDr_none (s.setIrq level) hrx]; rfl
  | some b => rw [readDr_some s b hrx, readDr_some (s.setIrq level) b hrx]; rfl

/-- Neither the exchange nor its peer sees `irq` (R122). -/
theorem writeDr_setIrq (v : Word) : writeDr v (s.setIrq level) = (writeDr v s).setIrq level := by
  cases htx : s.txbuf with
  | some q => rw [writeDr_full v q s htx, writeDr_full v q (s.setIrq level) htx]; rfl
  | none =>
    cases hrx : s.rxbuf with
    | none => rw [writeDr_keeps v s htx hrx, writeDr_keeps v (s.setIrq level) htx hrx]; rfl
    | some q => rw [writeDr_loses v q s htx hrx, writeDr_loses v q (s.setIrq level) htx hrx]; rfl

/-- No operation depends on the level `irq` had (R144). -/
theorem exec_setIrq (i : Instr) : exec i (s.setIrq level) = exec i s := by
  cases i with
  | rdCr1 | rdCr2 | rdSr | rdCsctrl | wrCr1 | wrCr2 | wrSr | wrCsctrl | rdInvalid | wrInvalid | reset => rfl
  | rdDr => simp only [exec, execRdDr, readDr_setIrq, finish_setIrq]
  | wrDr v => rw [exec_wrDr, exec_wrDr, writeDr_setIrq, finish_setIrq]

end

/-! ### The statement -/

/-- Settles O30: the state after an operation is settled, since `finish` made it, and the operation never reads the
old level. -/
theorem everyOperationSettlesTheInterrupt : Obligations.EveryOperationSettlesTheInterrupt := by
  intro i s t hexec
  obtain ⟨htxe, hrxne, hlevel⟩ := settled_of_exec hexec
  have hirq := irqOf_eq_true_iff t
  rw [← hlevel] at hirq
  exact ⟨htxe, hrxne, hirq, fun level => (exec_setIrq s level i).trans hexec⟩

end Sys2Proof.Machine
end

section
/-! SUPPORT. The chip-select decoder: the levels `UpdateCs` drives, and the operations that run it (R160, R162). -/

namespace Sys2Proof.Machine

/-- `UpdateCs` writes the levels and their event, and nothing else (R160, R128). -/
theorem updateCs_frame (s : State) :
    updateCs s = { s with cs := (updateCs s).cs, trace := .csSet (updateCs s).cs :: s.trace } := rfl

/-- The closing `UpdateIrq` touches neither CSCTRL nor the lines: lines as `UpdateCs` drives them stay so. -/
theorem cs_eq_updateCs_of_finish {r : Option Word} {u t : State} (ht : finish r u = .next t)
    (hu : u.cs = (updateCs u).cs) : t.cs = (updateCs t).cs := by
  cases ht
  exact hu

/-- A second `UpdateCs` drives the levels of the first: they come from CSCTRL, which it leaves alone (R160). -/
theorem updateCs_updateCs_cs (s : State) : (updateCs (updateCs s)).cs = (updateCs s).cs := by
  rw [updateCs_cs (updateCs s), updateCs_csctrl, updateCs_numCs, updateCs_cs]

/-- A reset and a write of CSCTRL end by `UpdateCs` on what they left in CSCTRL (R162). -/
theorem exec_eq_finish_updateCs {i : Instr} (s : State) (hi : i = .reset ∨ ∃ v, i = .wrCsctrl v) :
    ∃ u, exec i s = finish none (updateCs u) := by
  obtain rfl | ⟨v, rfl⟩ := hi
  · exact ⟨(clearCells s).setPhase .running, rfl⟩
  · exact ⟨s.setCsctrl (masked v csctrlMask), rfl⟩

/-- Settles O29: `linesFollow_updateCs` gives each line's level, and the two operations of R162 end by `UpdateCs`. -/
theorem updateCsDecodesEveryLine : Obligations.UpdateCsDecodesEveryLine := by
  intro s
  obtain ⟨hlength, hlevel⟩ := linesFollow_updateCs s
  refine ⟨hlength, updateCs_frame s, fun i hi => ⟨fun hdisabled => ?disabled, fun henabled => ?enabled⟩,
    fun i t hi hexec => ?driven⟩
  case disabled => rw [hlevel i hi, updateCs_csctrl, hdisabled, Bool.false_and, Bool.not_false]
  case enabled => rw [hlevel i hi, updateCs_csctrl, henabled, Bool.true_and]
  case driven =>
    obtain ⟨u, hu⟩ := exec_eq_finish_updateCs s hi
    exact cs_eq_updateCs_of_finish (hu.symm.trans hexec) (updateCs_updateCs_cs u).symm

end Sys2Proof.Machine
end

section
/-! SUPPORT. Exceptions: the three outcomes of construction (R186), and what the error flags may reach (R182). -/

namespace Sys2Proof.Machine

/-! ### Construction -/

section
variable {n : Nat} (powerOn : State)

theorem construct_of_not_legal (h : ¬ Config.legalNumCs n) (peerAttached : Bool) :
    construct n peerAttached powerOn = .error (.badChipSelectCount n) :=
  if_neg h

theorem construct_of_no_peer (h : Config.legalNumCs n) : construct n false powerOn = .error .missingPeer :=
  if_pos h

theorem construct_of_legal (h : Config.legalNumCs n) :
    construct n true powerOn =
      .ok { powerOn with numCs := n, phase := .awaitingReset, rdata := none, requests := [], trace := [] } :=
  if_pos h

end

/-- Before the first reset no access boundary is claimed, so a legal line count is all that is asked (R224). -/
theorem lifecycle_of_awaitingReset {s : State} (hlines : Config.legalNumCs s.numCs)
    (hphase : s.phase = .awaitingReset) : Lifecycle s where
  lines := hlines
  boundary hrunning := by rw [hphase] at hrunning; cases hrunning

/-- Settles O25: construction tests the line count first and the peer second, and what it builds awaits its reset. -/
theorem constructionRefusesBadConfiguration : Obligations.ConstructionRefusesBadConfiguration := by
  refine fun n peerAttached powerOn => ⟨fun hout => ?badCount, fun hlow hhigh => ?noPeer, fun hlow hhigh => ?built⟩
  case badCount => exact construct_of_not_legal powerOn (by omega) peerAttached
  case noPeer => exact construct_of_no_peer powerOn ⟨hlow, hhigh⟩
  case built =>
    have hlegal : Config.legalNumCs n := ⟨hlow, hhigh⟩
    exact ⟨_, construct_of_legal powerOn hlegal, rfl, rfl, lifecycle_of_awaitingReset hlegal rfl⟩

/-! ### Two states that differ in the error flags only -/

/-- `s'` is `s` with any values of OVERRUN and UNDERRUN (R182). -/
def SameButErrorFlags (s s' : State) : Prop := ∃ w, s' = s.setSr w ∧ SrKeepsBut [2, 3] s (s.setSr w)

namespace SameButErrorFlags

theorem refl (s : State) : SameButErrorFlags s s := ⟨s.sr, rfl, fun _ _ => rfl⟩

variable {s s' : State}

theorem getLsbD_sr (h : SameButErrorFlags s s') {k : Nat} (hk : k ∉ [2, 3]) : s'.sr.getLsbD k = s.sr.getLsbD k := by
  obtain ⟨w, rfl, hbits⟩ := h
  exact hbits k hk

theorem rxbuf_eq (h : SameButErrorFlags s s') : s'.rxbuf = s.rxbuf := by
  obtain ⟨w, rfl, _⟩ := h
  rfl

theorem txbuf_eq (h : SameButErrorFlags s s') : s'.txbuf = s.txbuf := by
  obtain ⟨w, rfl, _⟩ := h
  rfl

/-- An update of the state that does not look at SR keeps the two states the same. -/
theorem map {f : State → State} (h : SameButErrorFlags s s') (hf : ∀ w, f (s.setSr w) = (f s).setSr w) :
    SameButErrorFlags (f s) (f s') := by
  obtain ⟨w, rfl, hbits⟩ := h
  have hself : f s = (f s).setSr s.sr := hf s.sr
  refine ⟨w, hf w, fun k hk => ?_⟩
  rw [hself]
  exact hbits k hk

/-- So does a write of SR that treats its other bits alike. -/
theorem setSr {v v' : Word} (h : SameButErrorFlags s s') (hbits : ∀ k ∉ [2, 3], v'.getLsbD k = v.getLsbD k) :
    SameButErrorFlags (s.setSr v) (s'.setSr v') := by
  obtain ⟨w, rfl, _⟩ := h
  exact ⟨v', rfl, hbits⟩

theorem setBits (h : SameButErrorFlags s s') (mask : Word) :
    SameButErrorFlags (s.setSr (setBits s.sr mask)) (s'.setSr (setBits s'.sr mask)) :=
  h.setSr fun k hk => by rw [getLsbD_setBits, getLsbD_setBits, h.getLsbD_sr hk]

theorem clearBits (h : SameButErrorFlags s s') (mask : Word) :
    SameButErrorFlags (s.setSr (clearBits s.sr mask)) (s'.setSr (clearBits s'.sr mask)) :=
  h.setSr fun k hk => by rw [getLsbD_clearBits, getLsbD_clearBits, h.getLsbD_sr hk]

/-! ### The operations on two such states -/

/-- A read of DR branches on the receive buffer, never on UNDERRUN (R102, R103). -/
theorem readDr (h : SameButErrorFlags s s') :
    (readDr s').1 = (readDr s).1 ∧ SameButErrorFlags (readDr s).2 (readDr s').2 := by
  cases hrx : s.rxbuf with
  | none =>
    rw [readDr_none s hrx, readDr_none s' (h.rxbuf_eq.trans hrx)]
    exact ⟨rfl, h.setBits srUnderrun⟩
  | some b =>
    rw [readDr_some s b hrx, readDr_some s' b (h.rxbuf_eq.trans hrx)]
    exact ⟨rfl, h.map (f := (·.setRxbuf none)) fun _ => rfl⟩

/-- A write of DR branches on the two buffers, never on OVERRUN, and the peer does not see SR (R104, R105, R122). -/
theorem writeDr (h : SameButErrorFlags s s') (v : Word) : SameButErrorFlags (writeDr v s) (writeDr v s') := by
  have hrx' := h.rxbuf_eq
  have htx' := h.txbuf_eq
  cases htx : s.txbuf with
  | some q =>
    rw [writeDr_full v q s htx, writeDr_full v q s' (htx'.trans htx)]
    exact h.setBits srOverrun
  | none =>
    cases hrx : s.rxbuf with
    | none =>
      have hsame := h.clearBits srBsy
      rw [writeDr_keeps v s htx hrx, writeDr_keeps v s' (htx'.trans htx) (hrx'.trans hrx)]
      obtain ⟨w, rfl, _⟩ := h
      exact ⟨_, rfl, fun _ hk => hsame.getLsbD_sr hk⟩
    | some q =>
      have hsame := (h.setBits srOverrun).clearBits srBsy
      rw [writeDr_loses v q s htx hrx, writeDr_loses v q s' (htx'.trans htx) (hrx'.trans hrx)]
      obtain ⟨w, rfl, _⟩ := h
      exact ⟨_, rfl, fun _ hk => hsame.getLsbD_sr hk⟩

/-- Every operation comes to its end with the same state but for the error flags, and with the same value to return,
except that a read of SR returns the flags (R182). -/
theorem exec (h : SameButErrorFlags s s') (i : Instr) :
    ∃ r r' u u', exec i s = finish r u ∧ exec i s' = finish r' u' ∧ SameButErrorFlags u u' ∧
      (i ≠ .rdSr → r' = r) := by
  cases i with
  | rdCr1 | rdCr2 | rdCsctrl =>
    obtain ⟨w, rfl, hbits⟩ := h
    exact ⟨_, _, _, _, rfl, rfl, ⟨w, rfl, hbits⟩, fun _ => rfl⟩
  | rdSr => exact ⟨_, _, _, _, rfl, rfl, h, fun hne => absurd rfl hne⟩
  | wrCr1 v => exact ⟨_, _, _, _, rfl, rfl, h.map (f := (·.setCr1 (masked v cr1Mask))) fun _ => rfl, fun _ => rfl⟩
  | wrCr2 v => exact ⟨_, _, _, _, rfl, rfl, h.map (f := (·.setCr2 (masked v cr2Mask))) fun _ => rfl, fun _ => rfl⟩
  | wrCsctrl v =>
    have hdriven := h.map (f := fun u => updateCs (u.setCsctrl (masked v csctrlMask))) fun _ => rfl
    exact ⟨_, _, _, _, rfl, rfl, hdriven, fun _ => rfl⟩
  | rdInvalid | wrInvalid => exact ⟨_, _, _, _, rfl, rfl, h.map fun _ => rfl, fun _ => rfl⟩
  | wrSr v => exact ⟨_, _, _, _, rfl, rfl, h.clearBits (masked v srClearMask), fun _ => rfl⟩
  | rdDr => exact ⟨_, _, _, _, rfl, rfl, h.readDr.2, fun _ => congrArg some h.readDr.1⟩
  | wrDr v => exact ⟨_, _, _, _, rfl, rfl, h.writeDr v, fun _ => rfl⟩
  | reset =>
    obtain ⟨w, rfl, _⟩ := h
    exact ⟨_, _, _, _, rfl, rfl, refl _, fun _ => rfl⟩

/-- The closing `UpdateIrq` lets the error flags reach `irq` through ERRIE and nothing else (R140, R141). -/
theorem of_finish {u u' t t' : State} {r r' : Option Word} (h : SameButErrorFlags u u') (ht : finish r u = .next t)
    (ht' : finish r' u' = .next t') :
    t' = { t with sr := t'.sr, irq := t'.irq, rdata := t'.rdata, trace := t'.trace } ∧ SrKeepsBut [2, 3] t t' ∧
      t'.trace.tail = t.trace.tail ∧ (t.cr2.getLsbD 5 = false → t'.irq = t.irq) := by
  cases ht
  cases ht'
  obtain ⟨w, rfl, hbits⟩ := h
  refine ⟨rfl, fun k hk => ?bits, rfl, fun herrie => ?level⟩
  case bits =>
    rw [getLsbD_updateIrq_sr, getLsbD_updateIrq_sr]
    split_ifs
    · rfl
    · rfl
    · exact hbits k hk
  case level =>
    have hdisabled : u.cr2.getLsbD 5 = false := herrie
    simp only [updateIrq_irq, setRdata_cr2, setSr_cr2, hdisabled, Bool.and_false, setRdata_txbuf, setSr_txbuf,
      setRdata_rxbuf, setSr_rxbuf]

end SameButErrorFlags

/-- Settles O35: every operation keeps two states the same but for the error flags up to its closing `UpdateIrq`, where
the flags reach only `irq`, and that through ERRIE. -/
theorem errorFlagsGateNothing : Obligations.ErrorFlagsGateNothing := by
  intro i w s t hw hexec
  have hbits : SrKeepsBut [2, 3] s (s.setSr w) := fun k hk => by
    simp only [List.mem_cons, List.not_mem_nil, or_false, not_or] at hk
    obtain ⟨h2, h3⟩ := hk
    exact hw k h2 h3
  have hstart : SameButErrorFlags s (s.setSr w) := ⟨w, rfl, hbits⟩
  obtain ⟨r, r', u, u', hu, hu', hsame, hr⟩ := hstart.exec i
  rw [hu] at hexec
  have ht' := finish_eq r' u'
  obtain ⟨hcells, hsr, htrace, hirq⟩ := hsame.of_finish hexec ht'
  have hrdata : t.rdata = r := by cases hexec; rfl
  exact ⟨_, hu'.trans ht', hcells, hsr, fun hi => (hr hi).trans hrdata.symm, htrace, hirq⟩

end Sys2Proof.Machine
end

section
/-! SUPPORT. Reset: the one state it leads to, whatever the state before it (R220, R221). -/

namespace Sys2Proof.Machine

/-- With CSCTRL at 0, every line is deasserted (R160, R220). -/
theorem lineLevels_zero (n : Nat) : lineLevels 0x00000000#32 n = List.replicate n true := by
  have hlevel : ∀ i ∈ List.range n, lineLevel 0x00000000#32 i = true := fun i _ => by
    rw [lineLevel_eq, BitVec.getLsbD_zero, Bool.false_and, Bool.not_false]
  rw [lineLevels, List.map_eq_replicate_iff.2 hlevel, List.length_range]

/-- On the cells that a reset has cleared, SR already mirrors the buffers and no enable is set, so `UpdateIrq` only
drives `irq` to 0 (R27, R140, R141). -/
theorem updateIrq_of_cleared {u : State} (hsr : u.sr = 0x00000002#32) (hcr2 : u.cr2 = 0x00000000#32)
    (htx : u.txbuf = none) (hrx : u.rxbuf = none) : updateIrq u = (u.setIrq false).record (.irqSet false) := by
  have hmirror : mirrorBuffers u.sr u.txEmpty (!u.rxEmpty) = u.sr := by
    rw [hsr, State.txEmpty, State.rxEmpty, htx, hrx]
    exact mirrorBuffers_self 0x00000002#32 true false rfl rfl
  have hlevel : irqFunction u.txEmpty (!u.rxEmpty) (errPending u.sr) u.cr2 = false := by
    simp only [irqFunction, hcr2, BitVec.getLsbD_zero, Bool.and_false, Bool.or_false]
  rw [updateIrq, hmirror, hlevel]
  rfl

/-- The reset state of R27 with as many lines as `s` has, and with the inputs and the earlier events of `s` (R220). -/
def State.powerOn (s : State) : State :=
  { State.reset with
    cs := List.replicate s.numCs true
    numCs := s.numCs
    requests := s.requests
    trace := .irqSet false :: .csSet (List.replicate s.numCs true) :: s.trace }

/-- `RESET` completes in the power-on state (R220). -/
theorem exec_reset (s : State) : exec .reset s = .next s.powerOn := by
  rw [exec, execReset, finish_eq, updateIrq_of_cleared rfl rfl rfl rfl, State.powerOn, ← lineLevels_zero]
  rfl

/-- Of the block before a reset, the number of lines alone decides the power-on state (R221). -/
theorem powerOn_eq_of_numCs_eq {s s' : State} (h : s.numCs = s'.numCs) :
    s'.powerOn = { s.powerOn with requests := s'.powerOn.requests, trace := s'.powerOn.trace } := by
  simp only [State.powerOn, h]

/-- Settles O21: `exec_reset` names the state, and each clause is a field of it. -/
theorem resetEstablishesThePowerOnState : Obligations.ResetEstablishesThePowerOnState :=
  fun s => ⟨s.powerOn, exec_reset s, rfl, rfl, rfl, rfl, rfl, rfl, rfl, rfl, rfl, rfl, rfl, rfl, rfl, rfl⟩

/-- Settles O22: both resets lead to a power-on state, and so does a second reset, which starts with the line count
and the inputs that the first one kept. -/
theorem resetForgetsThePast : Obligations.ResetForgetsThePast := by
  intro s s' t t' hlines ht ht'
  rw [exec_reset] at ht ht'
  cases ht
  cases ht'
  exact ⟨powerOn_eq_of_numCs_eq hlines, s.powerOn.powerOn, exec_reset s.powerOn,
    powerOn_eq_of_numCs_eq (s := s) (s' := s.powerOn) rfl⟩

end Sys2Proof.Machine
end

section
/-! SUPPORT. Encoding and decoding: the round trips, the opcode table and the platform's side of the bus (R41, R60 to
R63). -/

namespace Sys2Proof.Machine

/-! ### The transactions, offset by offset -/

/-- A transaction names one of the five registers, or is a read or a write of an invalid offset (R63). -/
theorem busTxn_cases {motive : BusTxn → Prop}
    (register : ∀ we offset w, offset ∈ regOffsets → motive ⟨we, offset, w⟩)
    (invalidRead : ∀ offset w, offset ∉ regOffsets → motive ⟨false, offset, w⟩)
    (invalidWrite : ∀ offset w, offset ∉ regOffsets → motive ⟨true, offset, w⟩) (t : BusTxn) : motive t := by
  obtain ⟨we, offset, w⟩ := t
  by_cases h : offset ∈ regOffsets
  · exact register we offset w h
  · cases we with
    | false => exact invalidRead offset w h
    | true => exact invalidWrite offset w h

theorem eq_of_mem_regOffsets {offset : Word} (h : offset ∈ regOffsets) :
    offset = offCr1 ∨ offset = offCr2 ∨ offset = offSr ∨ offset = offDr ∨ offset = offCsctrl := by
  simpa [regOffsets] using h

/-- Settles O1: one lemma per constructor; the two invalid operations use that well-formedness keeps their offset off
the five registers. -/
theorem decodeUndoesEncode : Obligations.DecodeUndoesEncode := by
  intro i
  cases i with
  | rdCr1 => exact Laws.RoundTrip.rdCr1
  | rdCr2 => exact Laws.RoundTrip.rdCr2
  | rdSr => exact Laws.RoundTrip.rdSr
  | rdDr => exact Laws.RoundTrip.rdDr
  | rdCsctrl => exact Laws.RoundTrip.rdCsctrl
  | wrCr1 v => exact Laws.RoundTrip.wrCr1 v
  | wrCr2 v => exact Laws.RoundTrip.wrCr2 v
  | wrSr v => exact Laws.RoundTrip.wrSr v
  | wrDr v => exact Laws.RoundTrip.wrDr v
  | wrCsctrl v => exact Laws.RoundTrip.wrCsctrl v
  | rdInvalid offset => exact Laws.RoundTrip.rdInvalid offset
  | wrInvalid offset v => exact Laws.RoundTrip.wrInvalid offset v
  | reset => exact Laws.RoundTrip.reset

/-- Encoding gives the transaction back, up to the `wdata` that a read ignores (R60). -/
theorem encode_decodeBus (t : BusTxn) :
    encode (decodeBus t) = .bus { t with wdata := if t.we then t.wdata else 0#32 } := by
  induction t using busTxn_cases with
  | register we offset w h =>
    obtain rfl | rfl | rfl | rfl | rfl := eq_of_mem_regOffsets h <;> cases we <;> rfl
  | invalidRead offset w h => rw [decodeBus_read_of_not_mem h w]; rfl
  | invalidWrite offset w h => rw [decodeBus_write_of_not_mem h w]; rfl

theorem wf_decodeBus (t : BusTxn) : (decodeBus t).wf = true := by
  induction t using busTxn_cases with
  | register we offset w h =>
    obtain rfl | rfl | rfl | rfl | rfl := eq_of_mem_regOffsets h <;> cases we <;> rfl
  | invalidRead offset w h => rw [decodeBus_read_of_not_mem h w]; exact not_isRegOffset_of_not_mem h
  | invalidWrite offset w h => rw [decodeBus_write_of_not_mem h w]; exact not_isRegOffset_of_not_mem h

/-- The encoding of `RESET` is no bus transaction, so no transaction decodes to it (R61). -/
theorem decodeBus_ne_reset (t : BusTxn) : decodeBus t ≠ .reset := by
  intro h
  have hencode := encode_decodeBus t
  rw [h] at hencode
  cases hencode

/-- Settles O2: the operation is `decodeBus t`. -/
theorem everyTransactionIsOneOperation : Obligations.EveryTransactionIsOneOperation :=
  fun t => ⟨decodeBus t, rfl, wf_decodeBus t, decodeBus_ne_reset t, encode_decodeBus t⟩

/-! ### The opcode table -/

theorem selector_we (t : BusTxn) : t.selector.getLsbD 32 = t.we := by
  rw [BusTxn.selector, BitVec.getLsbD_append]
  simp

theorem selector_offset (t : BusTxn) : t.selector.extractLsb' 0 32 = t.offset := by
  apply BitVec.eq_of_getLsbD_eq
  intro i hi
  rw [BusTxn.selector, BitVec.getLsbD_extractLsb', BitVec.getLsbD_append, Nat.zero_add]
  simp [hi]

/-- The catch-all rows see the bit `we` alone (R62). -/
theorem selector_and_catchAll (t : BusTxn) :
    t.selector &&& 0x100000000#33 = if t.we then 0x100000000#33 else 0x000000000#33 := by
  rw [show 0x100000000#33 = BitVec.twoPow 33 32 from rfl, BitVec.and_twoPow, selector_we]

/-- The ten register rows compare every bit, with a register's offset in bits 31:0 (R62, R63). -/
theorem registerRows_exact :
    ∀ r ∈ opcodeTable.take 10, r.mask = BitVec.allOnes 33 ∧ r.pattern.extractLsb' 0 32 ∈ regOffsets := by
  decide

theorem find_registerRows_of_not_mem {t : BusTxn} (h : t.offset ∉ regOffsets) :
    (opcodeTable.take 10).find? (fun r => t.selector &&& r.mask == r.pattern) = none := by
  rw [List.find?_eq_none]
  intro r hr htakes
  obtain ⟨hmask, hpattern⟩ := registerRows_exact r hr
  rw [hmask, BitVec.and_allOnes, beq_iff_eq] at htakes
  rw [← htakes, selector_offset] at hpattern
  exact h hpattern

/-- An invalid offset falls through to the catch-all rows, and `we` decides between them (R62, R66). -/
theorem find_opcodeTable_of_not_mem {t : BusTxn} (h : t.offset ∉ regOffsets) :
    (opcodeTable.find? fun r => t.selector &&& r.mask == r.pattern).map TableRow.mnemonic =
      some (if t.we then "WR_INVALID" else "RD_INVALID") := by
  rw [← List.take_append_drop 10 opcodeTable, List.find?_append, find_registerRows_of_not_mem h]
  cases hwe : t.we <;> simp [opcodeTable, selector_and_catchAll, hwe]

/-- A register offset stops at its own row of the ten (R62, R63). -/
theorem find_opcodeTable_of_mem (we : Bool) {offset : Word} (h : offset ∈ regOffsets) :
    (opcodeTable.find? fun r => (BusTxn.mk we offset 0#32).selector &&& r.mask == r.pattern).map TableRow.mnemonic =
      some (decodeBus ⟨we, offset, 0#32⟩).mnemonic := by
  obtain rfl | rfl | rfl | rfl | rfl := eq_of_mem_regOffsets h <;> cases we <;> decide

theorem mnemonic_decodeBus_wdata (we : Bool) (offset w w' : Word) :
    (decodeBus ⟨we, offset, w⟩).mnemonic = (decodeBus ⟨we, offset, w'⟩).mnemonic := by
  rw [decodeBus, decodeBus]
  split_ifs <;> rfl

theorem find_opcodeTable (t : BusTxn) :
    (opcodeTable.find? fun r => t.selector &&& r.mask == r.pattern).map TableRow.mnemonic =
      some (decodeBus t).mnemonic := by
  induction t using busTxn_cases with
  | register we offset w h =>
    rw [mnemonic_decodeBus_wdata we offset w 0#32]
    exact find_opcodeTable_of_mem we h
  | invalidRead offset w h => rw [decodeBus_read_of_not_mem h w, find_opcodeTable_of_not_mem h]; rfl
  | invalidWrite offset w h => rw [decodeBus_write_of_not_mem h w, find_opcodeTable_of_not_mem h]; rfl

/-- Settles O3: the ten register rows are found by the whole selector, the two catch-all rows by `we`. -/
theorem decoderSelectsTheFirstMatchingRow : Obligations.DecoderSelectsTheFirstMatchingRow :=
  ⟨fun t => ⟨selector_we t, selector_offset t, find_opcodeTable t,
    fun w => mnemonic_decodeBus_wdata t.we t.offset w t.wdata, decodeBus_ne_reset t⟩, rfl, rfl⟩

/-- Settles O5: each word is a literal that `decodeTableWord` evaluates. -/
theorem writtenOutWordsDecode : Obligations.WrittenOutWordsDecode := by
  refine ⟨?rdDr, ?rdSr, ?rdInvalid, ?wrCr2, ?wrDr, ?wrInvalid, ?reset⟩ <;> decide

/-! ### Accesses at system addresses -/

/-- An access outside the window never reaches the block (R41). -/
theorem decode_mem_outside {addr : Nat} (h : addr < Config.base ∨ Config.base + Config.windowBytes ≤ addr)
    (kind : AccessKind) (bytes : Nat) : decode (.mem kind addr bytes) = .elsewhere :=
  if_neg (by omega)

/-- The bus offset of an address of the window (R41). -/
def busOffset (addr : Nat) : Word := BitVec.ofNat 32 (addr - Config.base)

theorem toNat_busOffset {addr : Nat} (h : inWindow addr) : (busOffset addr).toNat = addr - Config.base := by
  obtain ⟨hlow, hhigh⟩ := h
  have hwords := Config.extraWords.isLt
  rw [Config.windowBytes] at hhigh
  exact Nat.mod_eq_of_lt (by omega)

section
variable {addr : Nat} (h : inWindow addr)
include h

theorem decode_mem_ok {k : AccessKind} {n : Nat} {t : BusTxn} (ht : memTxn k addr n = .ok t) :
    decode (.mem k addr n) = .op (decodeBus t) := by
  rw [decode, if_pos h, ht]

theorem decode_mem_error {k : AccessKind} {n : Nat} {why : Reject} (hwhy : memTxn k addr n = .error why) :
    decode (.mem k addr n) = .rejected why := by
  rw [decode, if_pos h, hwhy]

theorem decode_read : decode (.mem .read addr 4) = .op (decodeBus ⟨false, busOffset addr, 0#32⟩) :=
  decode_mem_ok h rfl

theorem decode_write (v : Word) : decode (.mem (.write v) addr 4) = .op (decodeBus ⟨true, busOffset addr, v⟩) :=
  decode_mem_ok h rfl

theorem decode_fetch (n : Nat) : decode (.mem .fetch addr n) = .rejected (.instructionFetch addr) :=
  decode_mem_error h rfl

theorem decode_width {n : Nat} (hn : n ≠ 4) {k : AccessKind} (hk : k ≠ .fetch) :
    decode (.mem k addr n) = .rejected (.accessWidth n) := by
  cases k with
  | fetch => exact absurd rfl hk
  | read => exact decode_mem_error h (if_neg hn)
  | write v => exact decode_mem_error h (if_neg hn)

end

/-- The two causes for which an access is refused, both inside the window (R43, R51). -/
theorem rejected_cases {r : Request} {why : Reject} (h : decode r = .rejected why) :
    ∃ k addr n, r = .mem k addr n ∧ inWindow addr ∧
      ((k = .fetch ∧ why = .instructionFetch addr) ∨ (k ≠ .fetch ∧ n ≠ 4 ∧ why = .accessWidth n)) := by
  cases r with
  | bus t => cases h
  | reset => cases h
  | mem k addr n =>
    by_cases hin : inWindow addr
    · refine ⟨k, addr, n, rfl, hin, ?_⟩
      by_cases hk : k = .fetch
      · subst hk
        rw [decode_fetch hin n] at h
        exact .inl ⟨rfl, (Decoded.rejected.inj h).symm⟩
      · have hn : n ≠ 4 := by
          rintro rfl
          cases k with
          | fetch => exact hk rfl
          | read => rw [decode_read hin] at h; cases h
          | write v => rw [decode_write hin v] at h; cases h
        rw [decode_width hin hn hk] at h
        exact .inr ⟨hk, hn, (Decoded.rejected.inj h).symm⟩
    · rw [decode_mem_outside (by omega)] at h
      cases h

/-- Settles O6: `busOffset` names the offset, and the window's bound keeps it inside 32 bits. -/
theorem platformAccessIsTheBusAccess : Obligations.PlatformAccessIsTheBusAccess := by
  refine ⟨by rw [Config.windowBytes]; omega, Nat.mul_mod_right _ _,
    fun addr v => ⟨fun hlow hhigh => ?inside, fun hout k n => decode_mem_outside hout k n⟩⟩
  case inside =>
    have hin : inWindow addr := ⟨hlow, hhigh⟩
    exact ⟨busOffset addr, toNat_busOffset hin, decode_read hin, decode_write hin v⟩

end Sys2Proof.Machine
end

section
/-! SUPPORT. Stepping: which inputs a step performs, lets past or refuses (R7, R28, R41, R47). -/

namespace Sys2Proof.Machine

theorem accepts_iff (p : Phase) (i : Instr) : accepts p i = true ↔ p = .running ∨ i = .reset := by
  cases p <;> simp [accepts]

theorem accepts_eq_false_iff (p : Phase) (i : Instr) : accepts p i = false ↔ p = .awaitingReset ∧ i ≠ .reset := by
  cases p <;> simp [accepts]

/-- Settles O7: the four laws of `step`, with `accepts` spelled out. -/
theorem stepPerformsTheNextInput : Obligations.StepPerformsTheNextInput :=
  fun s => ⟨step_idle s, fun r rest hreq =>
    ⟨fun i hi hphase => step_run s r rest i hreq hi ((accepts_iff s.phase i).2 hphase), step_elsewhere s r rest hreq,
      fun why => step_rejected s r rest why hreq⟩⟩

/-- Settles O8: both causes are rejected by the decode, so the step is refused whatever the state. -/
theorem narrowAccessesAndFetchesAreRefused : Obligations.NarrowAccessesAndFetchesAreRefused := by
  intro s rest addr n v hlow hhigh
  have hin : inWindow addr := ⟨hlow, hhigh⟩
  exact ⟨step_rejected _ _ rest _ rfl (decode_fetch hin n), fun hn =>
    ⟨step_rejected _ _ rest _ rfl (decode_width hin hn (by simp)),
      step_rejected _ _ rest _ rfl (decode_width hin hn (by simp))⟩⟩

/-- Settles O11: an access outside decodes to nothing, and `step_refused_cases` leaves the two causes of
`rejected_cases` and an operation before the first reset. -/
theorem outsideAccessesDoNotReachTheBlock : Obligations.OutsideAccessesDoNotReachTheBlock := by
  refine ⟨fun s rest k addr n hout => step_elsewhere _ _ rest rfl (decode_mem_outside hout k n), fun s why h => ?_⟩
  obtain ⟨r, rest, hreq, ⟨w, hdecode, rfl⟩ | ⟨i, hdecode, haccepts, rfl⟩⟩ := step_refused_cases s why h
  · obtain ⟨k, addr, n, hr, ⟨hlow, hhigh⟩, ⟨hk, rfl⟩ | ⟨hk, hn, rfl⟩⟩ := rejected_cases hdecode
    · exact ⟨r, rest, hreq, .inr ⟨k, addr, n, hr, hlow, hhigh, .inl ⟨hk, rfl⟩⟩⟩
    · exact ⟨r, rest, hreq, .inr ⟨k, addr, n, hr, hlow, hhigh, .inr ⟨hk, hn, rfl⟩⟩⟩
  · obtain ⟨hphase, hi⟩ := (accepts_eq_false_iff s.phase i).1 haccepts
    have hr : r ≠ .reset := by
      rintro rfl
      exact hi (Decoded.op.inj hdecode).symm
    exact ⟨r, rest, hreq, .inl ⟨hphase, hr, rfl⟩⟩

end Sys2Proof.Machine
end

section
/-! SUPPORT. Every operation said once: the value it returns, what it does before its closing `UpdateIrq`, which cells
it may write and which events it adds (R80, R81, R93). -/

namespace Sys2Proof.Machine

/-! ### Value, effect and end of an operation -/

/-- The value an operation returns (R80, R81). -/
def returned : Instr → State → Option Word
  | .rdCr1, s => some s.cr1
  | .rdCr2, s => some s.cr2
  | .rdSr, s => some s.sr
  | .rdDr, s => some (readDr s).1
  | .rdCsctrl, s => some s.csctrl
  | .rdInvalid _, _ => some 0x00000000#32
  | .wrCr1 _, _ | .wrCr2 _, _ | .wrSr _, _ | .wrDr _, _ | .wrCsctrl _, _ | .wrInvalid _ _, _ | .reset, _ => none

/-- What an operation does before its closing `UpdateIrq` (R80, R81, R220). -/
def effect : Instr → State → State
  | .rdCr1, s | .rdCr2, s | .rdSr, s | .rdCsctrl, s => s
  | .rdDr, s => (readDr s).2
  | .wrCr1 v, s => s.setCr1 (masked v cr1Mask)
  | .wrCr2 v, s => s.setCr2 (masked v cr2Mask)
  | .wrSr v, s => s.setSr (clearBits s.sr (masked v srClearMask))
  | .wrDr v, s => writeDr v s
  | .wrCsctrl v, s => updateCs (s.setCsctrl (masked v csctrlMask))
  | .rdInvalid offset, s => s.record (.diag (.invalidRead offset))
  | .wrInvalid offset v, s => s.record (.diag (.invalidWrite offset v))
  | .reset, s => updateCs ((clearCells s).setPhase .running)

theorem exec_eq_finish_effect (i : Instr) (s : State) : exec i s = finish (returned i s) (effect i s) := by
  cases i <;> rfl

/-- The state an operation ends in (R143). -/
def result (i : Instr) (s : State) : State := updateIrq ((effect i s).setRdata (returned i s))

/-- Every operation completes (R7, R53). -/
theorem exec_eq_next (i : Instr) (s : State) : exec i s = .next (result i s) := exec_eq_finish_effect i s

theorem eq_result_of_exec {i : Instr} {s t : State} (h : exec i s = .next t) : t = result i s := by
  rw [exec_eq_next] at h
  cases h
  rfl

theorem finish_of_exec {i : Instr} {s t : State} (h : exec i s = .next t) :
    finish (returned i s) (effect i s) = .next t :=
  (exec_eq_finish_effect i s).symm.trans h

theorem returned_isSome_iff (i : Instr) (s : State) :
    (returned i s).isSome = true ↔
      i ∈ [.rdCr1, .rdCr2, .rdSr, .rdDr, .rdCsctrl] ∨ ∃ offset, i = .rdInvalid offset := by
  cases i <;> simp [returned]

/-- Settles O10: the end state is `result i s`, and `returned` says which operations return a value. -/
theorem everyOperationCompletes : Obligations.EveryOperationCompletes :=
  fun i s => ⟨result i s, exec_eq_next i s, returned_isSome_iff i s⟩

/-! ### The cells an operation may write -/

/-- The cells each operation may write (R10, R15, R21, R23). -/
def writes : Instr → List Cell
  | .rdCr1 | .rdCr2 | .rdSr | .rdCsctrl | .wrSr _ | .rdInvalid _ | .wrInvalid _ _ => []
  | .rdDr | .wrDr _ => [.rxbuf]
  | .wrCr1 _ => [.cr1]
  | .wrCr2 _ => [.cr2]
  | .wrCsctrl _ => [.csctrl, .cs]
  | .reset => [.cr1, .cr2, .dr, .csctrl, .txbuf, .rxbuf, .cs, .phase]

theorem keepsBut_readDr (s : State) : KeepsBut [.rxbuf] s (readDr s).2 := by
  cases hrx : s.rxbuf with
  | none =>
    rw [readDr_none s hrx]
    constructor <;> simp [raise]
  | some b =>
    rw [readDr_some s b hrx]
    exact keepsBut_setRxbuf s none

/-- A write of DR ends with the transmit buffer as it found it: emptied again by the drain, or still full (R104,
R105). -/
theorem keepsBut_writeDr_all (v : Word) (s : State) : KeepsBut [.rxbuf] s (writeDr v s) := by
  cases htx : s.txbuf with
  | none => exact keepsBut_writeDr v htx
  | some q =>
    rw [writeDr_full v q s htx]
    constructor <;> simp [raise]

theorem keepsBut_reset (s : State) : KeepsBut (writes .reset) s (effect .reset s) := by
  constructor <;> simp [writes, effect, clearCells]

theorem keepsBut_effect (i : Instr) (s : State) : KeepsBut (writes i) s (effect i s) := by
  cases i with
  | rdCr1 | rdCr2 | rdSr | rdCsctrl => exact keepsBut_refl s
  | rdDr => exact keepsBut_readDr s
  | wrCr1 v => exact keepsBut_setCr1 s _
  | wrCr2 v => exact keepsBut_setCr2 s _
  | wrSr v => exact keepsBut_setSr s _
  | wrDr v => exact keepsBut_writeDr_all v s
  | wrCsctrl v => exact keepsBut_updateCs_setCsctrl s _
  | rdInvalid offset => exact keepsBut_record s _
  | wrInvalid offset v => exact keepsBut_record s _
  | reset => exact keepsBut_reset s

theorem keepsBut_of_exec {i : Instr} {s t : State} (h : exec i s = .next t) : KeepsBut (writes i) s t :=
  (keepsBut_effect i s).of_finish (finish_of_exec h)

/-- Settles O32: the frame `writes`, read cell by cell. -/
theorem stateChangesOnlyByItsOwnOperations : Obligations.StateChangesOnlyByItsOwnOperations := by
  intro i s t h
  have hkeep := keepsBut_of_exec h
  refine ⟨hkeep.numCs, fun hreset =>
    ⟨hkeep.dr ?dr, fun hi => hkeep.cr1 ?cr1, fun hi => hkeep.cr2 ?cr2,
      fun hi => ⟨hkeep.csctrl ?csctrl, hkeep.cs ?cs⟩, fun hi => hkeep.txbuf ?txbuf,
      fun hi hrd => hkeep.rxbuf ?rxbuf⟩⟩
  all_goals cases i <;> simp_all [writes]

/-! ### The events of an operation -/

/-- The events an operation adds before its closing `IrqSet`, newest first (R93, R128). -/
def events : Instr → State → List Event
  | .wrDr v, s => if s.txbuf.isNone then [.xfer (dataByte v) (peerAnswer s (dataByte v))] else []
  | .wrCsctrl v, s => [.csSet (effect (.wrCsctrl v) s).cs]
  | .reset, s => [.csSet (effect .reset s).cs]
  | .rdInvalid offset, _ => [.diag (.invalidRead offset)]
  | .wrInvalid offset v, _ => [.diag (.invalidWrite offset v)]
  | .rdCr1, _ | .rdCr2, _ | .rdSr, _ | .rdDr, _ | .rdCsctrl, _ | .wrCr1 _, _ | .wrCr2 _, _ | .wrSr _, _ => []

theorem readDr_trace (s : State) : (readDr s).2.trace = s.trace := by
  cases hrx : s.rxbuf with
  | none => rw [readDr_none s hrx]; rfl
  | some b => rw [readDr_some s b hrx]; rfl

theorem writeDr_trace_eq_events (v : Word) (s : State) : (writeDr v s).trace = events (.wrDr v) s ++ s.trace := by
  cases htx : s.txbuf with
  | none => rw [writeDr_trace v htx, events, htx]; rfl
  | some q => rw [writeDr_full v q s htx, events, htx]; rfl

theorem effect_trace (i : Instr) (s : State) : (effect i s).trace = events i s ++ s.trace := by
  cases i with
  | rdDr => exact readDr_trace s
  | wrDr v => exact writeDr_trace_eq_events v s
  | rdCr1 | rdCr2 | rdSr | rdCsctrl | wrCr1 | wrCr2 | wrSr | wrCsctrl | rdInvalid | wrInvalid | reset => rfl

theorem trace_of_exec {i : Instr} {s t : State} (h : exec i s = .next t) :
    t.trace = .irqSet t.irq :: (events i s ++ s.trace) := by
  obtain rfl := eq_result_of_exec h
  rw [← effect_trace]
  rfl

/-- Settles O31: `trace_of_exec`, with the levels of `CsSet` read off the end state. -/
theorem eventsOfEveryOperation : Obligations.EventsOfEveryOperation := by
  intro i s t h
  refine ⟨events i s, trace_of_exec h, ?_⟩
  obtain rfl := eq_result_of_exec h
  cases i <;> rfl

/-! ### The error flags -/

/-- A reset leaves TXE alone set (R27). -/
theorem getLsbD_reset_sr (s : State) (k : Nat) : (effect .reset s).sr.getLsbD k = decide (1 = k) := by
  have h : (effect .reset s).sr = BitVec.twoPow 32 1 := rfl
  rw [h, BitVec.getLsbD_twoPow]
  rfl

/-- The effect of an operation raises OVERRUN and UNDERRUN in the accesses to DR alone (R180, R181). -/
theorem getLsbD_effect_sr_errorFlag {k : Nat} (hk : k = 2 ∨ k = 3) {i : Instr} {s : State}
    (hold : s.sr.getLsbD k = false) (hset : (effect i s).sr.getLsbD k = true) :
    (k = 2 ∧ i = .rdDr ∧ s.rxbuf = none) ∨
      (k = 3 ∧ (∃ v, i = .wrDr v) ∧ (s.txbuf.isSome = true ∨ s.rxbuf.isSome = true)) := by
  cases i with
  | rdCr1 | rdCr2 | rdSr | rdCsctrl | wrCr1 | wrCr2 | wrCsctrl | rdInvalid | wrInvalid =>
    exact absurd (hold.symm.trans hset) Bool.false_ne_true
  | rdDr =>
    rw [effect, getLsbD_readDr_sr, hold, Bool.false_or, Bool.and_eq_true, decide_eq_true_iff,
      Option.isNone_iff_eq_none] at hset
    obtain ⟨hflag, hempty⟩ := hset
    exact .inl ⟨hflag.symm, rfl, hempty⟩
  | wrDr v =>
    rw [effect, getLsbD_writeDr_sr v s k (by omega), hold, Bool.false_or, Bool.and_eq_true, decide_eq_true_iff,
      Bool.or_eq_true] at hset
    obtain ⟨hflag, hoccupied⟩ := hset
    exact .inr ⟨hflag.symm, ⟨v, rfl⟩, hoccupied⟩
  | wrSr v =>
    rw [effect, setSr_sr, getLsbD_clearBits, hold, Bool.false_and] at hset
    exact absurd hset Bool.false_ne_true
  | reset =>
    rw [getLsbD_reset_sr, decide_eq_true_iff] at hset
    omega

/-- Settles O34: the closing `UpdateIrq` leaves both flags alone, so the effect raised the flag. -/
theorem errorFlagsRiseOnlyInDrAccesses : Obligations.ErrorFlagsRiseOnlyInDrAccesses := by
  intro i s t h
  have hflag := fun k (hk : 2 ≤ k) => getLsbD_sr_of_finish (finish_of_exec h) hk
  refine ⟨fun hold hset => ?overrun, fun hold hset => ?underrun⟩
  case overrun =>
    rw [hflag 3 (by decide)] at hset
    obtain ⟨hk, _⟩ | ⟨_, hwrite⟩ := getLsbD_effect_sr_errorFlag (.inr rfl) hold hset
    · exact absurd hk (by decide)
    · exact hwrite
  case underrun =>
    rw [hflag 2 (by decide)] at hset
    obtain ⟨_, hread⟩ | ⟨hk, _⟩ := getLsbD_effect_sr_errorFlag (.inl rfl) hold hset
    · exact hread
    · exact absurd hk (by decide)

end Sys2Proof.Machine
end

section
/-! SUPPORT. The invariants of an access boundary: every complete operation keeps them and a reset establishes them
(R30, R224). -/

namespace Sys2Proof.Machine

/-! ### SR at an access boundary -/

/-- INV4 and INV5 say that no bit of SR above OVERRUN is set (R30). -/
theorem srHigh_clear_iff (sr : Word) :
    (sr.getLsbD 7 = false ∧ sr &&& 0xFFFFFF70#32 = 0#32) ↔ ∀ k, 4 ≤ k → sr.getLsbD k = false := by
  have hbits : ∀ k, (sr &&& 0xFFFFFF70#32).getLsbD k = (sr.getLsbD k && !(0x0000008F#32).getLsbD k) := fun k =>
    getLsbD_clearBits sr 0x0000008F#32 k
  constructor
  · rintro ⟨h7, hzero⟩ k hk
    by_cases hk7 : k = 7
    · rw [hk7, h7]
    · have hbit := hbits k
      rw [hzero, BitVec.getLsbD_zero, getLsbD_srBits, decide_eq_false (by omega)] at hbit
      simpa using hbit.symm
  · intro h
    refine ⟨h 7 (by decide), ?_⟩
    apply BitVec.eq_of_getLsbD_eq
    intro k _
    rw [hbits, BitVec.getLsbD_zero, getLsbD_srBits]
    by_cases hk : 4 ≤ k
    · rw [h k hk, Bool.false_and]
    · rw [decide_eq_true (by omega), Bool.not_true, Bool.and_false]

theorem AccessBoundary.srHigh {s : State} (hb : AccessBoundary s) {k : Nat} (hk : 4 ≤ k) : s.sr.getLsbD k = false :=
  (srHigh_clear_iff s.sr).1 ⟨hb.inv4, hb.inv5⟩ k hk

theorem AccessBoundary.settled {s : State} (hb : AccessBoundary s) : Settled s where
  txe := by rw [hb.inv2, hb.inv1]; rfl
  rxne := hb.inv3
  level := hb.inv7

/-- From a state with the transmit buffer empty, no operation sets a bit of SR above OVERRUN (R14, R125). -/
theorem srHigh_effect {s : State} (htx : s.txbuf = none) {k : Nat} (hk : 4 ≤ k) (hold : s.sr.getLsbD k = false)
    (i : Instr) : (effect i s).sr.getLsbD k = false := by
  cases i with
  | rdCr1 | rdCr2 | rdSr | rdCsctrl | wrCr1 | wrCr2 | wrCsctrl | rdInvalid | wrInvalid => exact hold
  | rdDr => rw [effect, getLsbD_readDr_sr, hold, decide_eq_false (by omega)]; rfl
  | wrDr v =>
    by_cases h7 : k = 7
    · subst h7
      exact getLsbD_writeDr_sr_bsy v htx
    · rw [effect, getLsbD_writeDr_sr v s k h7, hold, decide_eq_false (by omega)]
      rfl
  | wrSr v => rw [effect, setSr_sr, getLsbD_clearBits, hold]; rfl
  | reset => rw [getLsbD_reset_sr, decide_eq_false (by omega)]

/-! ### The registers and the lines -/

theorem masked_and_not (v mask : Word) : masked v mask &&& ~~~mask = 0#32 := by
  rw [masked, BitVec.and_assoc, BitVec.and_not_self]
  exact BitVec.and_zero

/-- INV6, INV8 and INV9: the part of an access boundary that looks neither at SR nor at the buffers (R30). -/
structure RegistersLegal (s : State) : Prop where
  cr1    : s.cr1 &&& ~~~0x44#32 = 0#32
  cr2    : s.cr2 &&& ~~~0xF0#32 = 0#32
  csctrl : s.csctrl &&& ~~~0xFF#32 = 0#32
  follow : LinesFollow s
  dr     : s.dr = 0x0000000C#32

theorem AccessBoundary.registersLegal {s : State} (hb : AccessBoundary s) : RegistersLegal s :=
  ⟨hb.inv6cr1, hb.inv6cr2, hb.inv6cs, hb.inv8, hb.inv9⟩

/-- Only the registers, the lines and their number count (R30). -/
theorem RegistersLegal.of_keepsBut {s u : State} (h : RegistersLegal s) {changed : List Cell}
    (hkeep : KeepsBut changed s u)
    (hcells : Cell.cr1 ∉ changed ∧ Cell.cr2 ∉ changed ∧ Cell.csctrl ∉ changed ∧ Cell.cs ∉ changed ∧
      Cell.dr ∉ changed) :
    RegistersLegal u := by
  obtain ⟨hcr1, hcr2, hcsctrl, hcs, hdr⟩ := hcells
  refine ⟨?cr1, ?cr2, ?csctrl, ?follow, ?dr⟩
  case cr1 => rw [hkeep.cr1 hcr1]; exact h.cr1
  case cr2 => rw [hkeep.cr2 hcr2]; exact h.cr2
  case csctrl => rw [hkeep.csctrl hcsctrl]; exact h.csctrl
  case follow => rw [LinesFollow, hkeep.cs hcs, hkeep.csctrl hcsctrl, hkeep.numCs]; exact h.follow
  case dr => rw [hkeep.dr hdr]; exact h.dr

theorem registersLegal_reset (s : State) : RegistersLegal (effect .reset s) :=
  ⟨BitVec.zero_and, BitVec.zero_and, BitVec.zero_and, linesFollow_updateCs _, rfl⟩

theorem registersLegal_effect {s : State} (h : RegistersLegal s) (i : Instr) : RegistersLegal (effect i s) := by
  cases i with
  | rdCr1 | rdCr2 | rdSr | rdDr | rdCsctrl | wrSr | wrDr | rdInvalid | wrInvalid =>
    exact h.of_keepsBut (keepsBut_effect _ s) (by simp [writes])
  | wrCr1 v => exact ⟨masked_and_not v cr1Mask, h.cr2, h.csctrl, h.follow, h.dr⟩
  | wrCr2 v => exact ⟨h.cr1, masked_and_not v cr2Mask, h.csctrl, h.follow, h.dr⟩
  | wrCsctrl v => exact ⟨h.cr1, h.cr2, masked_and_not v csctrlMask, linesFollow_updateCs _, h.dr⟩
  | reset => exact registersLegal_reset s

/-! ### The end of an operation is an access boundary -/

/-- What has to hold when the closing `UpdateIrq` runs for it to end at an access boundary (R30, R143). -/
theorem boundary_of_finish {r : Option Word} {u t : State} (ht : finish r u = .next t) (htx : u.txbuf = none)
    (hsr : ∀ k, 4 ≤ k → u.sr.getLsbD k = false) (hregs : RegistersLegal u) (hlines : Config.legalNumCs u.numCs) :
    AccessBoundary t := by
  have hhigh : ∀ k, 4 ≤ k → t.sr.getLsbD k = false := fun k hk =>
    (getLsbD_sr_of_finish ht (by omega)).trans (hsr k hk)
  obtain ⟨hbsy, hzero⟩ := (srHigh_clear_iff t.sr).2 hhigh
  cases ht
  obtain ⟨htxe, hrxne, hlevel⟩ := settled_updateIrq (u.setRdata r)
  have htxe' := htxe.trans (congrArg Option.isNone htx)
  obtain ⟨hcr1, hcr2, hcsctrl, hfollow, hdr⟩ := hregs
  exact ⟨htx, htxe', hrxne, hbsy, hzero, hcr1, hcr2, hcsctrl, hlevel, hfollow, hdr, hlines⟩

/-- A reset reaches an access boundary whatever the state before it (R220, R221). -/
theorem boundary_of_exec_reset {s t : State} (hlines : Config.legalNumCs s.numCs) (h : exec .reset s = .next t) :
    AccessBoundary t :=
  boundary_of_finish (finish_of_exec h) rfl
    (fun k hk => (getLsbD_reset_sr s k).trans (decide_eq_false (by omega))) (registersLegal_reset s) hlines

theorem txbuf_not_mem_writes {i : Instr} (hi : i ≠ .reset) : Cell.txbuf ∉ writes i := by
  cases i <;> simp_all [writes]

theorem boundary_of_exec {i : Instr} {s t : State} (hb : AccessBoundary s) (h : exec i s = .next t) :
    AccessBoundary t := by
  by_cases hi : i = .reset
  · subst hi
    exact boundary_of_exec_reset hb.lines h
  · have hkeep := keepsBut_effect i s
    have htx := (hkeep.txbuf (txbuf_not_mem_writes hi)).trans hb.inv1
    have hlines : Config.legalNumCs (effect i s).numCs := by rw [hkeep.numCs]; exact hb.lines
    exact boundary_of_finish (finish_of_exec h) htx (fun k hk => srHigh_effect hb.inv1 hk (hb.srHigh hk) i)
      (registersLegal_effect hb.registersLegal i) hlines

/-! ### Between two steps -/

/-- The waiting inputs are no part of the invariants (R30). -/
theorem AccessBoundary.setRequests {s : State} (hb : AccessBoundary s) (rs : List Request) :
    AccessBoundary (s.setRequests rs) := by
  obtain ⟨h1, h2, h3, h4, h5, h6cr1, h6cr2, h6cs, h7, h8, h9, hlines⟩ := hb
  exact ⟨h1, h2, h3, h4, h5, h6cr1, h6cr2, h6cs, h7, h8, h9, hlines⟩

/-- Settles O47: a step idles, lets an input past or performs an operation the phase accepts, which keeps the boundary
of a running block and is the reset, which makes it one, in a waiting block. -/
theorem stepKeepsTheLifecycleInvariant : Obligations.StepKeepsTheLifecycleInvariant := by
  intro s t hlife h
  obtain ⟨_, rfl⟩ | ⟨r, rest, _, _, rfl⟩ | ⟨r, rest, i, _, _, haccepts, hexec⟩ := step_cases s t h
  · exact hlife
  · exact ⟨hlife.lines, fun hrunning => (hlife.boundary hrunning).setRequests rest⟩
  · have hboundary : AccessBoundary t := by
      obtain hrunning | rfl := (accepts_iff s.phase i).1 haccepts
      · exact boundary_of_exec ((hlife.boundary hrunning).setRequests rest) hexec
      · exact boundary_of_exec_reset (s := s.setRequests rest) hlife.lines hexec
    exact ⟨hboundary.lines, fun _ => hboundary⟩

/-! ### What holds at an access boundary -/

theorem putBit_errorFlags_mem : ∀ overrun underrun : Bool,
    putBit (putBit 0x00#32 3 overrun) 2 underrun ∈ [0x00#32, 0x04#32, 0x08#32, 0x0C#32] := by decide

theorem putBit_rxne_mem : ∀ rxne : Bool, putBit 0x00#32 0 rxne ∈ [0x00#32, 0x01#32] := by decide

theorem putBit_sr_eq_or : ∀ overrun underrun rxne : Bool,
    putBit (putBit (putBit 0x02#32 3 overrun) 2 underrun) 0 rxne =
      0x02#32 ||| putBit (putBit 0x00#32 3 overrun) 2 underrun ||| putBit 0x00#32 0 rxne := by decide

/-- TXE is always 1 at an access boundary, so TXEIE alone asserts `irq` (R193). -/
theorem AccessBoundary.irq_of_txeie {s : State} (hb : AccessBoundary s) (h : s.cr2.getLsbD 7 = true) :
    s.irq = true := by
  rw [hb.inv7, irqOf, hb.inv2, h]
  rfl

/-- Settles O48: `boundary_of_exec`, `boundary_of_exec_reset`, and the values that INV2, INV4 and INV5 leave SR. -/
theorem operationsReachAnAccessBoundary : Obligations.OperationsReachAnAccessBoundary := by
  refine fun i s t h =>
    ⟨fun hb => boundary_of_exec hb h, fun hi hlines => ?reset, fun hb => ⟨?sr, hb.irq_of_txeie⟩⟩
  case reset =>
    subst hi
    exact boundary_of_exec_reset hlines h
  case sr =>
    exact ⟨_, putBit_errorFlags_mem _ _, _, putBit_rxne_mem _, hb.sr_eq_putBit.trans (putBit_sr_eq_or _ _ _)⟩

/-- Settles O36: the operation ends at an access boundary. -/
theorem txeieHoldsTheInterrupt : Obligations.TxeieHoldsTheInterrupt :=
  fun _ _ _ hb h => (boundary_of_exec hb h).irq_of_txeie

/-- A settled state keeps SR and `irq` through `UpdateIrq` (R145). -/
theorem Settled.updateIrq_eq {u : State} (h : Settled u) :
    updateIrq u = { u with trace := .irqSet u.irq :: u.trace } := by
  have hsr : (updateIrq u).sr = u.sr :=
    mirrorBuffers_self u.sr u.txEmpty (!u.rxEmpty) h.txe (h.rxne.trans (Option.not_isNone u.rxbuf).symm)
  have hirq : (updateIrq u).irq = u.irq := by
    rw [(settled_updateIrq u).level, irqOf_congr hsr rfl, h.level]
  calc updateIrq u = { u with sr := (updateIrq u).sr, irq := (updateIrq u).irq, trace := (updateIrq u).trace } := rfl
    _ = _ := by rw [updateIrq_trace, hsr, hirq]

/-- Settles O28: `UpdateIrq` leaves a settled state, and an access boundary is settled. -/
theorem updateIrqIsIdempotent : Obligations.UpdateIrqIsIdempotent :=
  fun s => ⟨(settled_updateIrq s).updateIrq_eq, fun hb => hb.settled.updateIrq_eq⟩

/-! ### The reset state and the first reset -/

/-- The reset state is what a reset makes of a block with four lines, no waiting input and no history (R27, R220). -/
theorem exec_reset_eq_reset {s : State} (hlines : s.numCs = Config.defaultNumCs) (hreq : s.requests = [])
    (htrace : s.trace = []) : exec .reset s = .next State.reset := by
  rw [exec_reset, State.powerOn, hlines, hreq, htrace]
  rfl

/-- Settles O24: construction leaves four lines, no waiting input and an empty trace. -/
theorem firstResetGivesTheResetState : Obligations.FirstResetGivesTheResetState := by
  intro powerOn s h
  rw [construct_of_legal powerOn (by decide)] at h
  cases h
  exact exec_reset_eq_reset rfl rfl rfl

theorem boundary_powerOn {s : State} (hlines : Config.legalNumCs s.numCs) : AccessBoundary s.powerOn :=
  boundary_of_exec_reset hlines (exec_reset s)

/-- Settles O9: the phase accepts no operation but the reset, which ends in the power-on state. -/
theorem accessBeforeTheFirstResetIsRefused : Obligations.AccessBeforeTheFirstResetIsRefused := by
  intro s rest hphase hlines
  have hrefused : ∀ (r : Request) (i : Instr), decode r = .op i → i ≠ .reset →
      step { s with requests := r :: rest } = .refused .beforeReset := fun r i hdecode hi =>
    step_beforeReset _ r rest i rfl hdecode ((accepts_eq_false_iff _ i).2 ⟨hphase, hi⟩)
  refine ⟨fun b => hrefused _ _ rfl (decodeBus_ne_reset b), hrefused, fun addr v hlow hhigh => ?window, ?reset⟩
  case window =>
    have hin : inWindow addr := ⟨hlow, hhigh⟩
    exact ⟨hrefused _ _ (decode_read hin) (decodeBus_ne_reset _),
      hrefused _ _ (decode_write hin v) (decodeBus_ne_reset _)⟩
  case reset =>
    have hstep := step_run { s with requests := .reset :: rest } .reset rest .reset rfl rfl
      ((accepts_iff _ _).2 (.inr rfl))
    exact ⟨_, hstep.trans (exec_reset _), rfl, rfl, boundary_powerOn hlines⟩

/-! ### Runs of a running block -/

theorem phase_of_exec {i : Instr} {s t : State} (hrunning : s.phase = .running) (h : exec i s = .next t) :
    t.phase = .running := by
  by_cases hi : i = .reset
  · subst hi
    obtain rfl := eq_result_of_exec h
    rfl
  · exact ((keepsBut_of_exec h).phase (by cases i <;> simp_all [writes])).trans hrunning

/-- A running block takes its oldest input, unless it refuses it (R47, R48). -/
theorem step_takes_input {s : State} {r : Request} {rest : List Request} (hrunning : s.phase = .running)
    (hreq : s.requests = r :: rest) (hr : ∀ why, decode r ≠ .rejected why) :
    ∃ t, step s = .next t ∧ t.requests = rest ∧ t.phase = .running := by
  cases hd : decode r with
  | rejected why => exact absurd hd (hr why)
  | elsewhere => exact ⟨_, step_elsewhere s r rest hreq hd, rfl, hrunning⟩
  | op i =>
    have hexec := exec_eq_next i (s.setRequests rest)
    have hstep := step_run s r rest i hreq hd ((accepts_iff _ i).2 (.inl hrunning))
    exact ⟨_, hstep.trans hexec, (keepsBut_of_exec hexec).requests,
      phase_of_exec (s := s.setRequests rest) hrunning hexec⟩

theorem core_run_succ {s t : State} (h : step s = .next t) (k : Nat) : core.run (k + 1) s = core.run k t := by
  have hcore : core.step s = .next t := h
  simp only [Host.Core.run, hcore]

/-- Settles O12: one input a step, by induction on the number of steps. -/
theorem everyInputTakesOneStep : Obligations.EveryInputTakesOneStep := by
  intro s hrunning hinputs k hk
  induction k generalizing s with
  | zero => exact ⟨s, rfl, rfl, hrunning⟩
  | succ k ih =>
    cases hreq : s.requests with
    | nil => rw [hreq] at hk; cases hk
    | cons r rest =>
      rw [hreq] at hinputs hk
      obtain ⟨hr, hrest⟩ := List.forall_mem_cons.1 hinputs
      obtain ⟨t, hstep, hreq', hrunning'⟩ := step_takes_input hrunning hreq hr
      rw [core_run_succ hstep]
      rw [← hreq'] at hrest hk ⊢
      exact ih t hrunning' hrest (Nat.le_of_succ_le_succ hk)

end Sys2Proof.Machine
end

section
/-! SUPPORT. The trace and the peer: what each operation adds to the peer's view, and how many bytes it exchanges
(R122, R126, R128). -/

namespace Sys2Proof.Machine

/-! ### What the peer sees of an operation -/

section
variable {i : Instr} {s t : State} (h : exec i s = .next t)
include h

/-- An operation that neither sends nor drives the lines adds nothing the peer can see (R122, R128). -/
theorem peerView_of_silent (hsends : sends i = false) (hcsctrl : ∀ v, i ≠ .wrCsctrl v) (hreset : i ≠ .reset) :
    peerView t.trace = peerView s.trace := by
  rw [trace_of_exec h]
  cases i with
  | wrDr v => cases hsends
  | wrCsctrl v => exact absurd rfl (hcsctrl v)
  | reset => exact absurd rfl hreset
  | rdCr1 | rdCr2 | rdSr | rdDr | rdCsctrl | wrCr1 | wrCr2 | wrSr | rdInvalid | wrInvalid => rfl

theorem cs_of_not_driven (hcsctrl : ∀ v, i ≠ .wrCsctrl v) (hreset : i ≠ .reset) : t.cs = s.cs := by
  refine (keepsBut_of_exec h).cs ?_
  cases i <;> simp_all [writes]

/-- A write of CSCTRL and a reset add one `CsSet`, with the levels they leave (R128, R162). -/
theorem trace_of_driven (hi : (∃ v, i = .wrCsctrl v) ∨ i = .reset) :
    t.trace = .irqSet t.irq :: .csSet t.cs :: s.trace := by
  rw [trace_of_exec h]
  obtain rfl := eq_result_of_exec h
  obtain ⟨v, rfl⟩ | rfl := hi <;> rfl

end

theorem peerAnswer_eq_of_view {s t : State} (hview : peerView t.trace = peerView s.trace) (hcs : t.cs = s.cs)
    (b : Byte) : peerAnswer t b = peerAnswer s b := by
  rw [peerAnswer, peerAnswer, hview, hcs]

/-- Settles O40: a silent operation adds no event of the peer's, and driving the levels already shown adds none
either. -/
theorem peerSeesExchangesAndLevelsOnly : Obligations.PeerSeesExchangesAndLevelsOnly := by
  refine fun i s t h => ⟨fun hsends hcsctrl hreset => ?silent, fun hi hagrees hcs => ?driven⟩
  case silent =>
    have hview := peerView_of_silent h hsends hcsctrl hreset
    have hcs := cs_of_not_driven h hcsctrl hreset
    exact ⟨hview, hcs, peerAnswer_eq_of_view hview hcs⟩
  case driven =>
    have hview : peerView t.trace = peerView s.trace := by
      rw [trace_of_driven h hi, peerView_irqSet, hcs, peerView_csSet_same _ _ hagrees.cs]
    exact ⟨hview, peerAnswer_eq_of_view hview hcs⟩

/-! ### The trace and the outputs -/

theorem head_trace_of_exec {i : Instr} {s t : State} (h : exec i s = .next t) :
    t.trace.head? = some (.irqSet t.irq) := by
  rw [trace_of_exec h]
  rfl

theorem traceAgrees_of_driven {i : Instr} {s t : State} (hi : (∃ v, i = .wrCsctrl v) ∨ i = .reset)
    (h : exec i s = .next t) : TraceAgrees t where
  irq := head_trace_of_exec h
  cs := by rw [trace_of_driven h hi, peerView_irqSet, shownLevels_csSet]

/-- An exchange shows the peer no new levels (R122). -/
theorem shownLevels_of_wrDr {v : Word} {s t : State} (h : exec (.wrDr v) s = .next t) :
    shownLevels (peerView t.trace) = shownLevels (peerView s.trace) := by
  rw [trace_of_exec h, events]
  split <;> rfl

theorem traceAgrees_of_exec {i : Instr} {s t : State} (hagrees : TraceAgrees s) (h : exec i s = .next t) :
    TraceAgrees t := by
  by_cases hdriven : (∃ v, i = .wrCsctrl v) ∨ i = .reset
  · exact traceAgrees_of_driven hdriven h
  · obtain ⟨hcsctrl, hreset⟩ := not_or.1 hdriven
    have hcs := cs_of_not_driven h (not_exists.1 hcsctrl) hreset
    have hshown : shownLevels (peerView t.trace) = shownLevels (peerView s.trace) := by
      cases i with
      | wrDr v => exact shownLevels_of_wrDr h
      | _ => rw [peerView_of_silent h rfl (not_exists.1 hcsctrl) hreset]
    exact ⟨head_trace_of_exec h, by rw [hshown, hcs, hagrees.cs]⟩

/-- Settles O50: of the three ways a step goes on, only an operation touches the trace. -/
theorem traceKeepsAgreeingWithTheOutputs : Obligations.TraceKeepsAgreeingWithTheOutputs := by
  refine ⟨fun s t hagrees h => ?step, fun s t h => traceAgrees_of_driven (.inr rfl) h⟩
  case step =>
    obtain ⟨_, rfl⟩ | ⟨r, rest, _, _, rfl⟩ | ⟨r, rest, i, _, _, _, hexec⟩ := step_cases s t h
    · exact hagrees
    · exact ⟨hagrees.irq, hagrees.cs⟩
    · exact traceAgrees_of_exec (s := s.setRequests rest) ⟨hagrees.irq, hagrees.cs⟩ hexec

/-- Settles O49: the reset state is what a reset leaves (R27), so it has what every reset establishes. -/
theorem resetStateMeetsTheInvariants : Obligations.ResetStateMeetsTheInvariants := by
  have hreset := exec_reset_eq_reset (s := { State.reset with trace := [] }) rfl rfl rfl
  have hboundary : AccessBoundary State.reset := boundary_of_exec_reset (by decide) hreset
  exact ⟨⟨hboundary.lines, fun _ => hboundary⟩, hboundary, traceAgrees_of_driven (.inr rfl) hreset⟩

/-! ### Counting exchanges -/

/-- With the transmit buffer empty, a write of DR exchanges one byte and no other operation any (R104, R126). -/
theorem exchanges_of_exec {i : Instr} {s t : State} (htx : s.txbuf = none) (h : exec i s = .next t) :
    exchanges t.trace = exchanges s.trace + (if sends i then 1 else 0) := by
  rw [trace_of_exec h]
  cases i with
  | wrDr v => rw [events, htx]; rfl
  | rdCr1 | rdCr2 | rdSr | rdDr | rdCsctrl | wrCr1 | wrCr2 | wrSr | wrCsctrl | rdInvalid | wrInvalid | reset => rfl

/-- Settles O41: by induction on the list, since every operation ends with the transmit buffer empty again. -/
theorem exchangesEqualDrWrites : Obligations.ExchangesEqualDrWrites := by
  intro ops s t hb h
  induction ops generalizing s with
  | nil => cases h; rfl
  | cons i rest ih =>
    have hexec := exec_eq_next i s
    rw [runOps_cons i rest s _ hexec] at h
    rw [ih _ (boundary_of_exec hb hexec) h, exchanges_of_exec hb.inv1 hexec, List.countP_cons]
    omega

end Sys2Proof.Machine
end

section
/-! SUPPORT. What the configuration registers do not reach: the exchange (R126), and, for SPE, MSTR and SSOE, anything
at all (R12, R13). -/

namespace Sys2Proof.Machine

/-! ### The exchange -/

/-- `s` with any values of CR1, CR2, CSCTRL and the DR cell. -/
def State.withConfig (s : State) (c1 c2 cc d : Word) : State := { s with cr1 := c1, cr2 := c2, csctrl := cc, dr := d }

/-- A write of DR branches on the buffers, and its exchange sees the trace and the lines (R104, R105, R122). -/
theorem writeDr_withConfig (v : Word) (s : State) (c1 c2 cc d : Word) :
    writeDr v (s.withConfig c1 c2 cc d) = (writeDr v s).withConfig c1 c2 cc d := by
  cases htx : s.txbuf with
  | some q => rw [writeDr_full v q s htx, writeDr_full v q (s.withConfig c1 c2 cc d) htx]; rfl
  | none =>
    cases hrx : s.rxbuf with
    | none => rw [writeDr_keeps v s htx hrx, writeDr_keeps v (s.withConfig c1 c2 cc d) htx hrx]; rfl
    | some q => rw [writeDr_loses v q s htx hrx, writeDr_loses v q (s.withConfig c1 c2 cc d) htx hrx]; rfl

/-- Settles O38: the write commutes with the configuration, and the closing `UpdateIrq` lets it reach only `irq`. -/
theorem nothingGatesTheExchange : Obligations.NothingGatesTheExchange := by
  intro v c1 c2 cc d s t h
  refine ⟨?same, fun htx => exchanges_of_exec htx h⟩
  case same =>
    have h' : exec (.wrDr v) (s.withConfig c1 c2 cc d) = finish none ((writeDr v s).withConfig c1 c2 cc d) := by
      rw [exec_wrDr, writeDr_withConfig]
    rw [exec_wrDr] at h
    cases h
    exact ⟨_, h', rfl, rfl, rfl, rfl, rfl⟩

/-! ### SPE, MSTR and SSOE -/

section
variable (s : State) (a c : Word)

theorem readDr_setStored :
    readDr ((s.setCr1 a).setCr2 c) = ((readDr s).1, ((readDr s).2.setCr1 a).setCr2 c) := by
  cases hrx : s.rxbuf with
  | none => rw [readDr_none s hrx, readDr_none ((s.setCr1 a).setCr2 c) hrx]; rfl
  | some b => rw [readDr_some s b hrx, readDr_some ((s.setCr1 a).setCr2 c) b hrx]; rfl

theorem writeDr_setStored (v : Word) :
    writeDr v ((s.setCr1 a).setCr2 c) = ((writeDr v s).setCr1 a).setCr2 c := by
  have hkeep := keepsBut_writeDr_all v s
  calc writeDr v ((s.setCr1 a).setCr2 c) = (writeDr v s).withConfig a c s.csctrl s.dr :=
        writeDr_withConfig v s a c s.csctrl s.dr
    _ = ((writeDr v s).setCr1 a).setCr2 c := by rw [← hkeep.csctrl (by decide), ← hkeep.dr (by decide)]; rfl

variable (hc : ∀ k, k ≠ 4 → c.getLsbD k = s.cr2.getLsbD k)
include hc

/-- Whatever CR1 and SSOE hold, the effect of an operation is the same but for those registers, each of which keeps
the value it had or gets the value the operation writes (R12, R13). -/
theorem effect_setStored (i : Instr) :
    ∃ x y, effect i ((s.setCr1 a).setCr2 c) = ((effect i s).setCr1 x).setCr2 y ∧
      (x = (effect i s).cr1 ∨ x = a) ∧ (y = (effect i s).cr2 ∨ y = c) ∧
      ∀ k, k ≠ 4 → y.getLsbD k = (effect i s).cr2.getLsbD k := by
  cases i with
  | wrCr1 v => exact ⟨masked v cr1Mask, c, rfl, .inl rfl, .inr rfl, hc⟩
  | wrCr2 v => exact ⟨a, masked v cr2Mask, rfl, .inr rfl, .inl rfl, fun _ _ => rfl⟩
  | reset => exact ⟨_, _, rfl, .inl rfl, .inl rfl, fun _ _ => rfl⟩
  | rdDr =>
    have hcr2 := (keepsBut_readDr s).cr2 (by decide)
    exact ⟨a, c, congrArg Prod.snd (readDr_setStored s a c), .inr rfl, .inr rfl, hcr2 ▸ hc⟩
  | wrDr v =>
    have hcr2 := (keepsBut_writeDr_all v s).cr2 (by decide)
    exact ⟨a, c, writeDr_setStored s a c v, .inr rfl, .inr rfl, hcr2 ▸ hc⟩
  | rdCr1 | rdCr2 | rdSr | rdCsctrl | wrSr | wrCsctrl | rdInvalid | wrInvalid =>
    exact ⟨a, c, rfl, .inr rfl, .inr rfl, hc⟩

/-- `UpdateIrq` reads CR2's enables, bits 7 to 5, and never CR1 (R140, R141). -/
theorem updateIrq_setStored : updateIrq ((s.setCr1 a).setCr2 c) = ((updateIrq s).setCr1 a).setCr2 c := by
  have hlevel : ∀ txe rxne err, irqFunction txe rxne err c = irqFunction txe rxne err s.cr2 := fun txe rxne err => by
    rw [irqFunction, irqFunction, hc 7 (by decide), hc 6 (by decide), hc 5 (by decide)]
  simp only [updateIrq, setCr2_cr2, hlevel]
  rfl

omit hc

theorem returned_setStored {i : Instr} (hcr1 : i ≠ .rdCr1) (hcr2 : i ≠ .rdCr2) :
    returned i ((s.setCr1 a).setCr2 c) = returned i s := by
  cases i with
  | rdCr1 => exact absurd rfl hcr1
  | rdCr2 => exact absurd rfl hcr2
  | rdDr => exact congrArg (some ·.1) (readDr_setStored s a c)
  | rdSr | rdCsctrl | wrCr1 | wrCr2 | wrSr | wrDr | wrCsctrl | rdInvalid | wrInvalid | reset => rfl

end

/-- Settles O39: neither the effect, nor the closing `UpdateIrq`, nor the value returned sees those bits. -/
theorem storedOnlyBitsChangeNothing : Obligations.StoredOnlyBitsChangeNothing := by
  intro i a c s t hrd1 hrd2 hc h
  obtain rfl := eq_result_of_exec h
  obtain ⟨x, y, heffect, hx, hy, hbits⟩ := effect_setStored s a c hc i
  have hresult : result i ((s.setCr1 a).setCr2 c) = ((result i s).setCr1 x).setCr2 y := by
    rw [result, heffect, returned_setStored s a c hrd1 hrd2]
    exact updateIrq_setStored ((effect i s).setRdata (returned i s)) x y hbits
  exact ⟨_, (exec_eq_next i _).trans (congrArg _ hresult), rfl, hx, hy⟩

end Sys2Proof.Machine
end

section
/-! SUPPORT. The compact description: at an access boundary it determines the registers and outputs, and the operations
act on it as the compact machine does (R31). -/

namespace Sys2Proof.Machine

/-! ### The registers, from the compact description -/

theorem putBit_eq_lowByte_cr1 : ∀ mstr spe : Bool,
    putBit (putBit 0#32 2 mstr) 6 spe = lowByte false spe false false false mstr false false := by decide

theorem putBit_eq_lowByte_cr2 : ∀ txeie rxneie errie ssoe : Bool,
    putBit (putBit (putBit (putBit 0#32 4 ssoe) 5 errie) 6 rxneie) 7 txeie =
      lowByte txeie rxneie errie ssoe false false false false := by decide

theorem putBit_eq_lowByte_sr : ∀ overrun underrun rxne : Bool,
    putBit (putBit (putBit 0x02#32 3 overrun) 2 underrun) 0 rxne =
      lowByte false false false false overrun underrun true rxne := by decide

section
variable {s : State} (hb : AccessBoundary s)
include hb

/-- INV6 leaves CR2 its four enables (R13, R30). -/
theorem AccessBoundary.cr2_eq_putBit :
    s.cr2 = putBit (putBit (putBit (putBit 0#32 4 (s.cr2.getLsbD 4)) 5 (s.cr2.getLsbD 5)) 6 (s.cr2.getLsbD 6)) 7
      (s.cr2.getLsbD 7) := by
  apply BitVec.eq_of_getLsbD_eq
  intro i _
  rw [getLsbD_putBit _ _ _ _ (by decide), getLsbD_putBit _ _ _ _ (by decide), getLsbD_putBit _ _ _ _ (by decide),
    getLsbD_putBit _ _ _ _ (by decide)]
  split_ifs with h7 h6 h5 h4
  · rw [h7]
  · rw [h6]
  · rw [h5]
  · rw [h4]
  · rw [BitVec.getLsbD_zero]
    exact getLsbD_eq_false_of_masked hb.inv6cr2 (by rw [getLsbD_cr2Mask, decide_eq_false (by omega)])

theorem AccessBoundary.cr1_eq_compact : s.cr1 = s.compact.cr1 :=
  hb.cr1_eq_putBit.trans (putBit_eq_lowByte_cr1 _ _)

theorem AccessBoundary.cr2_eq_compact : s.cr2 = s.compact.cr2 :=
  hb.cr2_eq_putBit.trans (putBit_eq_lowByte_cr2 _ _ _ _)

theorem AccessBoundary.sr_eq_compact : s.sr = s.compact.sr := by
  have hsr := hb.sr_eq_putBit.trans (putBit_eq_lowByte_sr _ _ _)
  rw [hb.inv3] at hsr
  exact hsr

theorem AccessBoundary.csctrl_eq_compact : s.csctrl = s.compact.csctrl.zeroExtend 32 := by
  apply BitVec.eq_of_getLsbD_eq
  intro i hi
  by_cases h8 : i < 8
  · simp [State.compact, hi, h8]
  · have hbit : s.csctrl.getLsbD i = false :=
      getLsbD_eq_false_of_masked hb.inv6cs (by rw [getLsbD_csctrlMask, decide_eq_false (by omega)])
    simp [State.compact, h8, hbit]

theorem AccessBoundary.irq_eq_compact : s.irq = s.compact.irq := by
  rw [hb.inv7, irqOf, hb.inv2, hb.inv3, Bool.true_and, Bool.and_comm s.rxbuf.isSome, Bool.and_comm (_ || _)]
  rfl

theorem AccessBoundary.line_eq_compact {i : Nat} (hi : i < s.numCs) : s.cs[i]? = some (s.compact.line i) := by
  obtain ⟨_, hlevel⟩ := hb.inv8
  obtain ⟨_, hmax⟩ := hb.lines
  have hlow : ∀ k, k < 8 → s.compact.csctrl.getLsbD k = s.csctrl.getLsbD k := fun k hk => by
    simp [State.compact, hk]
  rw [hlevel i hi, Compact.line, hlow i (by omega), hlow (4 + i) (by omega)]

end

/-- Settles O51: INV1 to INV8, register by register. -/
theorem compactDescriptionDeterminesTheState : Obligations.CompactDescriptionDeterminesTheState :=
  fun _ hb => ⟨hb.cr1_eq_compact, hb.cr2_eq_compact, hb.sr_eq_compact, hb.csctrl_eq_compact, hb.inv1, rfl,
    hb.irq_eq_compact, fun _ hi => hb.line_eq_compact hi⟩

/-! ### The operations on the compact description -/

/-- The closing `UpdateIrq` changes nothing of the compact description (R31, R140). -/
theorem compact_of_finish {r : Option Word} {u t : State} (h : finish r u = .next t) :
    t.compact = u.compact ∧ t.rdata = r := by
  have hbits := fun k (hk : 2 ≤ k) => getLsbD_sr_of_finish h hk
  have hoverrun := hbits 3 (by decide)
  have hunderrun := hbits 2 (by decide)
  cases h
  refine ⟨?_, rfl⟩
  rw [State.compact, hoverrun, hunderrun]
  rfl

/-- A state whose change is to SR and the receive buffer alone, on the compact description. -/
theorem compact_eq_of_keepsBut {s u : State} (h : KeepsBut [.rxbuf] s u) :
    u.compact =
      { s.compact with overrun := u.sr.getLsbD 3, underrun := u.sr.getLsbD 2, rxbuf := u.rxbuf } := by
  rw [State.compact, h.cr1 (by decide), h.cr2 (by decide), h.csctrl (by decide)]
  rfl

theorem compact_op_rdDr (s : State) (answer : Byte) :
    Compact.op .rdDr answer s.compact = ((readDr s).2.compact, some (readDr s).1) := by
  rw [compact_eq_of_keepsBut (keepsBut_readDr s), getLsbD_readDr_sr, getLsbD_readDr_sr]
  cases hrx : s.rxbuf with
  | none => simp [Compact.op, State.compact, readDr_none s hrx, raise, hrx]
  | some b => simp [Compact.op, State.compact, readDr_some s b hrx, hrx, zextByte]

theorem compact_op_wrDr {s : State} (htx : s.txbuf = none) (v : Word) :
    Compact.op (.wrDr v) (peerAnswer s (dataByte v)) s.compact = ((writeDr v s).compact, none) := by
  rw [compact_eq_of_keepsBut (keepsBut_writeDr v htx), writeDr_rxbuf v htx,
    getLsbD_writeDr_sr v s 3 (by decide), getLsbD_writeDr_sr v s 2 (by decide), htx]
  cases hrx : s.rxbuf with
  | none => simp [Compact.op, State.compact, hrx]
  | some q => simp [Compact.op, State.compact, hrx]

theorem getLsbD_masked_of_mem (v : Word) {mask : Word} {i : Nat} (h : mask.getLsbD i = true) :
    (masked v mask).getLsbD i = v.getLsbD i := by
  rw [getLsbD_masked, h, Bool.and_true]

theorem compact_setCr1_masked (s : State) (v : Word) :
    (s.setCr1 (masked v cr1Mask)).compact = { s.compact with spe := v.getLsbD 6, mstr := v.getLsbD 2 } := by
  rw [← getLsbD_masked_of_mem v (mask := cr1Mask) (i := 6) (by decide),
    ← getLsbD_masked_of_mem v (mask := cr1Mask) (i := 2) (by decide)]
  rfl

theorem compact_setCr2_masked (s : State) (v : Word) :
    (s.setCr2 (masked v cr2Mask)).compact =
      { s.compact with
        txeie := v.getLsbD 7, rxneie := v.getLsbD 6, errie := v.getLsbD 5, ssoe := v.getLsbD 4 } := by
  have hbit := fun i (h : cr2Mask.getLsbD i = true) => getLsbD_masked_of_mem v h
  rw [← hbit 7 (by decide), ← hbit 6 (by decide), ← hbit 5 (by decide), ← hbit 4 (by decide)]
  rfl

theorem compact_setSr_clearBits (s : State) (v : Word) :
    (s.setSr (clearBits s.sr (masked v srClearMask))).compact =
      { s.compact with
        overrun := s.sr.getLsbD 3 && !v.getLsbD 3, underrun := s.sr.getLsbD 2 && !v.getLsbD 2 } := by
  rw [← getLsbD_clearBits_errorFlag s.sr v (.inr rfl), ← getLsbD_clearBits_errorFlag s.sr v (.inl rfl)]
  rfl

theorem compact_setCsctrl_masked (s : State) (v : Word) :
    (s.setCsctrl (masked v csctrlMask)).compact = { s.compact with csctrl := v.truncate 8 } := by
  have hlow : (masked v csctrlMask).truncate 8 = v.truncate 8 := by
    apply BitVec.eq_of_getLsbD_eq
    intro i hi
    have hmask : csctrlMask.getLsbD i = true := by rw [getLsbD_csctrlMask, decide_eq_true (by omega)]
    simp only [BitVec.truncate_eq_setWidth, BitVec.getLsbD_setWidth, getLsbD_masked_of_mem v hmask]
  rw [← hlow]
  rfl

theorem compact_reset :
    State.reset.compact = (Compact.op .reset 0#8 State.reset.compact).1 := by decide

/-- The effect of an operation, on the compact description, is the compact machine's (R31). -/
theorem compact_op_eq {s : State} (hb : AccessBoundary s) {i : Instr} {answer : Byte}
    (hanswer : ∀ v, i = .wrDr v → answer = peerAnswer s (dataByte v)) :
    Compact.op i answer s.compact = ((effect i s).compact, returned i s) := by
  cases i with
  | rdCr1 => rw [Compact.op, ← hb.cr1_eq_compact]; rfl
  | rdCr2 => rw [Compact.op, ← hb.cr2_eq_compact]; rfl
  | rdSr => rw [Compact.op, ← hb.sr_eq_compact]; rfl
  | rdCsctrl => rw [Compact.op, ← hb.csctrl_eq_compact]; rfl
  | rdDr => exact compact_op_rdDr s answer
  | wrDr v => rw [hanswer v rfl]; exact compact_op_wrDr hb.inv1 v
  | wrCr1 v => rw [effect, compact_setCr1_masked]; rfl
  | wrCr2 v => rw [effect, compact_setCr2_masked]; rfl
  | wrSr v => rw [effect, compact_setSr_clearBits]; rfl
  | wrCsctrl v => exact congrArg (·, none) (compact_setCsctrl_masked s v).symm
  | rdInvalid | wrInvalid => rfl
  | reset => exact congrArg (·, none) compact_reset.symm

theorem compact_of_exec {i : Instr} {answer : Byte} {s t : State} (hb : AccessBoundary s)
    (hanswer : ∀ v, i = .wrDr v → answer = peerAnswer s (dataByte v)) (h : exec i s = .next t) :
    (t.compact, t.rdata) = Compact.op i answer s.compact := by
  obtain ⟨hcompact, hrdata⟩ := compact_of_finish (finish_of_exec h)
  rw [compact_op_eq hb hanswer, hcompact, hrdata]

/-- Settles O52: the closing `UpdateIrq` is invisible in the compact description, and the effects agree operation by
operation. -/
theorem operationsRefineTheCompactMachine : Obligations.OperationsRefineTheCompactMachine :=
  fun i _ s hb hanswer => ⟨_, exec_eq_next i s, compact_of_exec hb hanswer (exec_eq_next i s)⟩

end Sys2Proof.Machine
end

section
/-! SUPPORT. Short sequences of operations (R70, R107, R108, R233), how `irq` falls (R196), and the bytes of a register
(R44). -/

namespace Sys2Proof.Machine

/-- Settles O44: the read returns what the write stored, whatever the closing `UpdateIrq` of the write did to SR. -/
theorem writeThenReadReturnsTheMaskedValue : Obligations.WriteThenReadReturnsTheMaskedValue :=
  fun _ _ => ⟨⟨_, rfl, rfl⟩, ⟨_, rfl, rfl⟩, ⟨_, rfl, rfl⟩⟩

/-! ### Sending and receiving -/

/-- A write of DR with both buffers empty keeps the answer (R104). -/
theorem exec_wrDr_keeps (b : Word) {s : State} (htx : s.txbuf = none) (hrx : s.rxbuf = none) :
    ∃ t, exec (.wrDr b) s = .next t ∧ t.txbuf = none ∧ t.rxbuf = some (peerAnswer s (dataByte b)) ∧
      SrKeepsBut [0, 1, 7] s t ∧
      t.trace = .irqSet t.irq :: .xfer (dataByte b) (peerAnswer s (dataByte b)) :: s.trace := by
  obtain ⟨_, hsends, _⟩ := writeDrExchangesOrOverruns
  obtain ⟨t, hexec, htx', _, _, _, hkeeps, _, _, _, _, htrace⟩ := hsends b s htx
  obtain ⟨hanswer, hbits⟩ := hkeeps hrx
  exact ⟨t, hexec, htx', hanswer, hbits, htrace⟩

/-- A write of DR that finds a byte unread loses the answer and sets OVERRUN (R104, R123). -/
theorem exec_wrDr_loses (b : Word) {s : State} {q : Byte} (htx : s.txbuf = none) (hrx : s.rxbuf = some q) :
    ∃ t, exec (.wrDr b) s = .next t ∧ t.rxbuf = some q ∧ t.sr.getLsbD 3 = true ∧
      t.trace = .irqSet t.irq :: .xfer (dataByte b) (peerAnswer s (dataByte b)) :: s.trace := by
  obtain ⟨_, hsends, _⟩ := writeDrExchangesOrOverruns
  obtain ⟨t, hexec, _, _, _, _, _, hloses, _, _, _, htrace⟩ := hsends b s htx
  obtain ⟨hold, hoverrun, _⟩ := hloses q hrx
  exact ⟨t, hexec, hold, hoverrun, htrace⟩

/-- A read of DR pops the byte received (R102). -/
theorem exec_rdDr_pops {s : State} {q : Byte} (hrx : s.rxbuf = some q) :
    ∃ t, exec .rdDr s = .next t ∧ t.rdata = some (q.zeroExtend 32) ∧ t.rxbuf = none ∧ t.txbuf = s.txbuf ∧
      SrKeepsBut [0, 1] s t ∧ t.trace = .irqSet t.irq :: s.trace := by
  obtain ⟨_, hpops, _⟩ := readDrPopsOrUnderruns
  obtain ⟨t, hexec, hrdata, hempty, _, hkeep, hbits, _, htrace⟩ := hpops s q hrx
  exact ⟨t, hexec, hrdata, hempty, hkeep.txbuf (by decide), hbits, htrace⟩

/-- SR at an access boundary is decided by the error flags and the receive buffer (R30). -/
theorem AccessBoundary.sr_eq_of {s t : State} (hs : AccessBoundary s) (ht : AccessBoundary t)
    (hoverrun : t.sr.getLsbD 3 = s.sr.getLsbD 3) (hunderrun : t.sr.getLsbD 2 = s.sr.getLsbD 2)
    (hrx : t.rxbuf = s.rxbuf) : t.sr = s.sr := by
  rw [ht.sr_eq_putBit, hs.sr_eq_putBit, hoverrun, hunderrun, ht.inv3, hs.inv3, hrx]

/-- Settles O42: the answer kept by the write is popped by the read, which leaves nothing for the second. -/
theorem writeThenReadReturnsTheAnswer : Obligations.WriteThenReadReturnsTheAnswer := by
  intro s b hb hrx
  obtain ⟨m, hwrite, htxm, hrxm, hbitsm, htracem⟩ := exec_wrDr_keeps b hb.inv1 hrx
  obtain ⟨t, hread, hrdata, hrxt, htxt, hbitst, htracet⟩ := exec_rdDr_pops hrxm
  obtain ⟨_, _, hunderruns⟩ := readDrPopsOrUnderruns
  obtain ⟨u, hagain, hzero, hunderrun, _⟩ := hunderruns t hrxt
  have hm := boundary_of_exec hb hwrite
  have hrxne := hm.inv3.trans (congrArg Option.isSome hrxm)
  have hsr : t.sr = s.sr := hb.sr_eq_of (boundary_of_exec hm hread)
    ((hbitst 3 (by decide)).trans (hbitsm 3 (by decide))) ((hbitst 2 (by decide)).trans (hbitsm 2 (by decide)))
    (hrxt.trans hrx.symm)
  have hexchanges : exchanges t.trace = exchanges s.trace + 1 := by rw [htracet, htracem]; rfl
  exact ⟨m, t, hwrite, htxm, hrxm, hrxne, hread, hrdata, htxt.trans htxm, hrxt, hsr, hexchanges, u, hagain, hzero,
    hunderrun⟩

/-- Settles O43: the first write keeps its answer, the second finds it unread, and the read pops it. -/
theorem backToBackWritesKeepTheFirstAnswer : Obligations.BackToBackWritesKeepTheFirstAnswer := by
  intro s a b hb hrx
  obtain ⟨m, hfirst, htxm, hrxm, _, htracem⟩ := exec_wrDr_keeps a hb.inv1 hrx
  obtain ⟨t, hsecond, hrxt, hoverrun, htracet⟩ := exec_wrDr_loses b htxm hrxm
  obtain ⟨u, hread, hrdata, _, _, hbits, _⟩ := exec_rdDr_pops hrxt
  have hrun : runOps [.wrDr a, .wrDr b] s = .next t := by
    rw [runOps_cons _ _ _ _ hfirst, runOps_cons _ _ _ _ hsecond, runOps_nil]
  rw [htracem] at htracet
  exact ⟨t, _, _, _, hrun, hrxt, hoverrun, htracet, u, hread, hrdata, (hbits 3 (by decide)).trans hoverrun⟩

/-! ### The pseudo-transactions -/

theorem runOps_one {i : Instr} {s t : State} (h : exec i s = .next t) : runOps [i] s = .next t := by
  rw [runOps_cons _ _ _ _ h, runOps_nil]

/-- A write of SR at an access boundary clears the flags it names (R86). -/
theorem runOps_wrSr {s : State} (hb : AccessBoundary s) (v : Word) :
    ∃ t, runOps [.wrSr v] s = .next t ∧ t.sr = s.sr &&& ~~~(v &&& 0x0000000C#32) := by
  obtain ⟨_, t, hexec, _, _, _, _, _, _, _, hsr⟩ := writeSrClearsTheErrorFlags v s
  exact ⟨t, runOps_one hexec, hsr hb⟩

/-- A write of CSCTRL drives each line from the two bits of `v` (R88, R160). -/
theorem runOps_wrCsctrl {s : State} (hb : AccessBoundary s) (v : Word) :
    ∃ t, runOps [.wrCsctrl v] s = .next t ∧
      ∀ i, i < s.numCs → t.cs[i]? = some (!(v.getLsbD i && v.getLsbD (4 + i))) := by
  obtain ⟨_, t, hexec, hbits, ⟨_, hlevel⟩, _, hkeep, _⟩ := writeCsctrlDrivesTheLines v s
  obtain ⟨_, hmax⟩ := hb.lines
  refine ⟨t, runOps_one hexec, fun i hi => ?_⟩
  rw [hlevel i (by rw [hkeep.numCs]; exact hi), hbits, hbits, decide_eq_true (by omega), decide_eq_true (by omega),
    Bool.and_true, Bool.and_true]

/-- `SEL` sets the two bits of its own line and no others (R70). -/
theorem selectLine_bits : ∀ line < 4, ∀ i < 4,
    (!((0x11#32 <<< line).getLsbD i && (0x11#32 <<< line).getLsbD (4 + i))) = decide (i ≠ line) := by
  decide

/-- Settles O45: each pseudo-transaction is a write of one register, or the write and the read of O42. -/
theorem pseudoTransactionsHaveTheirEffects : Obligations.PseudoTransactionsHaveTheirEffects := by
  intro s hb
  refine ⟨runOps_wrSr hb 0x0000000C#32, runOps_wrSr hb 0x00000008#32, runOps_wrSr hb 0x00000004#32,
    fun line hline => ?sel, ?desel, fun m => ⟨_, rfl, rfl⟩, fun b hrx => ?xfer⟩
  case sel =>
    obtain ⟨_, hmax⟩ := hb.lines
    have hlt : line < s.numCs := of_decide_eq_true hline
    obtain ⟨t, hrun, hlevel⟩ := runOps_wrCsctrl hb (0x11#32 <<< line)
    exact ⟨t, hrun, fun i hi => by rw [hlevel i hi, selectLine_bits line (by omega) i (by omega)]⟩
  case desel =>
    obtain ⟨t, hrun, hlevel⟩ := runOps_wrCsctrl hb 0x00000000#32
    exact ⟨t, hrun, fun i hi => by rw [hlevel i hi, BitVec.getLsbD_zero]; rfl⟩
  case xfer =>
    obtain ⟨m, t, hwrite, _, _, _, hread, hrdata, _⟩ := writeThenReadReturnsTheAnswer s b hb hrx
    exact ⟨t, (runOps_cons _ _ _ _ hwrite).trans (runOps_one hread), hrdata⟩

/-! ### How `irq` falls -/

/-- The level an operation other than a write of DR leaves, from the compact description (R31, R141). -/
theorem irq_of_exec {i : Instr} {s t : State} (hb : AccessBoundary s) (hi : ∀ v, i ≠ .wrDr v)
    (h : exec i s = .next t) : t.irq = (Compact.op i 0#8 s.compact).1.irq := by
  rw [← compact_of_exec hb (fun v hv => absurd hv (hi v)) h]
  exact (boundary_of_exec hb h).irq_eq_compact

/-- Settles O37: the aggregator on the compact description after each operation. -/
theorem interruptFallsWithItsLastTerm : Obligations.InterruptFallsWithItsLastTerm := by
  intro s b hb hrx
  have hrx' : s.compact.rxbuf = some b := hrx
  have hirq := fun i (hi : ∀ v, i ≠ .wrDr v) => irq_of_exec hb hi (exec_eq_next i s)
  refine ⟨⟨_, exec_eq_next _ s, ?rdDr⟩, ⟨_, exec_eq_next _ s, ?wrSr⟩, ⟨_, exec_eq_next _ s, ?wrCr2⟩,
    ⟨_, exec_eq_next _ s, ?rdSr⟩⟩
  case rdDr => rw [hirq .rdDr nofun, Compact.op, hrx']; simp [Compact.irq, State.compact, Bool.and_comm]
  case wrSr => rw [hirq (.wrSr _) nofun, Compact.op, Compact.irq]; simp [hrx, State.compact]
  case wrCr2 => rw [hirq (.wrCr2 _) nofun, Compact.op, Compact.irq]; simp
  case rdSr => rw [hirq .rdSr nofun, hb.irq_eq_compact, Compact.op]

/-! ### The bytes of a register -/

theorem getLsbD_byteLane (w : Word) (k : Nat) {j : Nat} (hj : j < 8) :
    (byteLane w k).getLsbD j = w.getLsbD (8 * k + j) := by
  rw [byteLane, BitVec.getLsbD_extractLsb', decide_eq_true hj, Bool.true_and]

/-- The four lanes of each register are at its offset and the three bytes above (R44, D4). -/
theorem cellByte_add (s : State) {k : Nat} (hk : k < 4) :
    s.cellByte (0x00 + k) = some (byteLane s.cr1 k) ∧ s.cellByte (0x04 + k) = some (byteLane s.cr2 k) ∧
      s.cellByte (0x08 + k) = some (byteLane s.sr k) ∧ s.cellByte (0x0C + k) = some (byteLane s.dr k) ∧
      s.cellByte (0x10 + k) = some (byteLane s.csctrl k) := by
  interval_cases k <;> exact ⟨rfl, rfl, rfl, rfl, rfl⟩

/-- Settles O46: a lane of the cell, bit by bit. -/
theorem registerBytesAreLittleEndian : Obligations.RegisterBytesAreLittleEndian := by
  intro s offset k w hmem hk
  have hbyte : s.cellByte (offset + k) = some (byteLane w k) := by
    obtain ⟨hcr1, hcr2, hsr, hdr, hcsctrl⟩ := cellByte_add s hk
    simp only [List.mem_cons, Prod.mk.injEq, List.not_mem_nil, or_false] at hmem
    obtain ⟨rfl, rfl⟩ | ⟨rfl, rfl⟩ | ⟨rfl, rfl⟩ | ⟨rfl, rfl⟩ | ⟨rfl, rfl⟩ := hmem
    · exact hcr1
    · exact hcr2
    · exact hsr
    · exact hdr
    · exact hcsctrl
  exact ⟨_, hbyte, fun j hj => getLsbD_byteLane w k hj⟩

end Sys2Proof.Machine
end
